-- ==== Sys2Proof/Word.lean ====
section
/-! DEFINITION. The widths of the machine: bytes, 32-bit words and the 64-bit counter. -/

namespace Sys2Proof

/-- One byte of data memory (20_memory.md R62). -/
abbrev Byte := BitVec 8

/-- A 32-bit word: a host register, a subkey, an S-box entry, a half block (00_scope.md R6, R11). -/
abbrev Word := BitVec 32

/-- The 64-bit CTR counter; only its bit pattern matters (10_state.md R30). -/
abbrev Counter := BitVec 64

end Sys2Proof
end

