-- ==== Sys2Proof/Syntax.lean ====
section
/-! DEFINITION. The commands of the core, the command word, the register names, and the host-program syntax. -/

namespace Sys2Proof

/-- The ten commands (30_encoding.md R92). No command has an immediate field: operands are registers (R93). -/
inductive Instr
  | keyset
  | encipher
  | decipher
  | blkEnc
  | blkDec
  | ecbEnc
  | ecbDec
  | cbcEnc
  | cbcDec
  | ctrCrypt
deriving DecidableEq, Repr

/-- The one command format, CMD32 (30_encoding.md R90): OPC in bits 7:0 and the reserved field in bits 31:8. -/
structure CmdWord where
  opc : BitVec 8
  rsv : BitVec 24
deriving DecidableEq, Repr

/-- The twelve host-visible registers (10_state.md R21). -/
inductive RegName
  | cmd
  | status
  | addr
  | len
  | ivaddr
  | ivlen
  | ctrLo
  | ctrHi
  | xl
  | xr
  | id
  | dmemsz
deriving DecidableEq, Repr

/-- The base lines of a host program (30_encoding.md R98). -/
inductive HostLine
  | wr (r : RegName) (v : Word)
  | rd (r : RegName)
  | dw (off : Nat) (v : Word)
  | dwb (off : Nat) (v : Word) (be : BitVec 4)
  | drd (off : Nat)
  | cmd (i : Instr)
  | wait
deriving DecidableEq, Repr

/-- The pseudo-instructions of a host program (30_encoding.md R99).
The counter of CTR_CRYPT is an integer: a negative one is written as its two's-complement pattern. -/
inductive Pseudo
  | db (off : Nat) (bytes : List Byte)
  | keyset (addr len : Word)
  | encipher (xl xr : Word)
  | decipher (xl xr : Word)
  | blkEnc (addr : Word)
  | blkDec (addr : Word)
  | ecbEnc (addr len : Word)
  | ecbDec (addr len : Word)
  | cbcEnc (addr len ivaddr : Word)
  | cbcDec (addr len ivaddr : Word)
  | ctrCrypt (addr len ivaddr : Word) (c : Int := 0)
  | ctrEnc (addr len ivaddr : Word) (c : Int := 0)
  | ctrDec (addr len ivaddr : Word) (c : Int := 0)
  | ctrCont (addr len ivaddr : Word)
deriving DecidableEq, Repr

end Sys2Proof
end

