-- ==== Sys2Proof/WellFormed.lean ====
section
/-! DEFINITION. Which command words and host-program lines are well formed. -/

namespace Sys2Proof

/-- The reserved field of a command word must be 0 (30_encoding.md R90). -/
def CmdWord.rsvZero (c : CmdWord) : Bool := c.rsv == 0

/-- The opcode must be one of 0x01 to 0x0A (30_encoding.md R92, R95). -/
def CmdWord.opcAssigned (c : CmdWord) : Bool := 0x01#8 ≤ c.opc && c.opc ≤ 0x0A#8

/-- A command word that selects a command (30_encoding.md R91). -/
def CmdWord.wellFormed (c : CmdWord) : Bool := c.rsvZero && c.opcAssigned

/-- Every command is well formed: none has a field of its own (30_encoding.md R93). -/
def Instr.wellFormed : Instr → Bool
  | .keyset | .encipher | .decipher | .blkEnc | .blkDec => true
  | .ecbEnc | .ecbDec | .cbcEnc | .cbcDec | .ctrCrypt => true

/-- A DMEM offset of a host line is word aligned (30_encoding.md R98). -/
def HostLine.aligned : HostLine → Bool
  | .dw off _ | .dwb off _ _ | .drd off => off % 4 == 0
  | .wr _ _ | .rd _ | .cmd _ | .wait => true

/-- A DMEM offset of a host line lies in the DMEM window (20_memory.md R61). -/
def HostLine.inWindow : HostLine → Bool
  | .dw off _ | .dwb off _ _ | .drd off => decide (off < 0x10000)
  | .wr _ _ | .rd _ | .cmd _ | .wait => true

/-- A base line that a bus access can express (30_encoding.md R98). -/
def HostLine.wellFormed (l : HostLine) : Bool := l.aligned && l.inWindow

/-- A pseudo-instruction whose expansion has only well-formed lines: `db` stays in the DMEM window,
the counter of CTR_CRYPT is a 64-bit signed or unsigned number (30_encoding.md R99, R94). -/
def Pseudo.wellFormed : Pseudo → Bool
  | .db off bytes => decide (off + bytes.length ≤ 0x10000)
  | .ctrCrypt _ _ _ c | .ctrEnc _ _ _ c | .ctrDec _ _ _ c => decide (-(2 ^ 63 : Int) ≤ c ∧ c < 2 ^ 64)
  | .keyset _ _ | .encipher _ _ | .decipher _ _ | .blkEnc _ | .blkDec _ | .ecbEnc _ _ | .ecbDec _ _
  | .cbcEnc _ _ _ | .cbcDec _ _ _ | .ctrCont _ _ _ => true

end Sys2Proof
end

