-- ==== Sys2Proof/Decode.lean ====
section
/-! DEFINITION. Decoding a command word, and encoding a command (30_encoding.md R90 to R92, R95). -/

namespace Sys2Proof

/-- Why a word decodes to no command (30_encoding.md R91, R95). Both end in Error(ILLEGAL_CMD), which is safe. -/
inductive DecodeReject
  /-- Bits 31:8 are not zero. -/
  | reservedBitsSet
  /-- The opcode is 0x00 or 0x0B to 0xFF. -/
  | opcodeUnassigned
deriving DecidableEq, Repr

/-- The opcode map (30_encoding.md R92). -/
def opcodeTable : List (BitVec 8 × Instr) :=
  [(0x01#8, .keyset), (0x02#8, .encipher), (0x03#8, .decipher), (0x04#8, .blkEnc), (0x05#8, .blkDec),
   (0x06#8, .ecbEnc), (0x07#8, .ecbDec), (0x08#8, .cbcEnc), (0x09#8, .cbcDec), (0x0A#8, .ctrCrypt)]

/-- The fields of a 32-bit command word (30_encoding.md R90). -/
def splitCmd (w : Word) : CmdWord := { opc := w.extractLsb' 0 8, rsv := w.extractLsb' 8 24 }

/-- The 32-bit command word of its fields (30_encoding.md R90). -/
def joinCmd (c : CmdWord) : Word := c.rsv ++ c.opc

/-- Decoding, total on all 32-bit words (30_encoding.md R91). -/
def decode (w : Word) : Except DecodeReject Instr :=
  if (splitCmd w).rsv ≠ 0 then .error .reservedBitsSet
  else
    match opcodeTable.lookup (splitCmd w).opc with
    | some i => .ok i
    | none => .error .opcodeUnassigned

/-- The opcode of a command (30_encoding.md R92). -/
def opcodeOf : Instr → BitVec 8
  | .keyset => 0x01
  | .encipher => 0x02
  | .decipher => 0x03
  | .blkEnc => 0x04
  | .blkDec => 0x05
  | .ecbEnc => 0x06
  | .ecbDec => 0x07
  | .cbcEnc => 0x08
  | .cbcDec => 0x09
  | .ctrCrypt => 0x0A

/-- The command word of a command (30_encoding.md R92). -/
def encode (i : Instr) : Word := joinCmd { opc := opcodeOf i, rsv := 0 }

/-- The word whose low `nbits` bits are those of `w`, all other bits 0 (a table word as the CMD register holds it). -/
def tableWord (nbits w : Nat) : Word := BitVec.ofNat 32 (w % 2 ^ nbits)

/-- The instruction the decoder reads from a row of the opcode table. -/
def decodeTableWord (nbits w : Nat) : Option Instr :=
  match decode (tableWord nbits w) with
  | .ok i => some i
  | .error _ => none

end Sys2Proof
end

