-- ==== Sys2Proof/Config.lean ====
section
/-! DEFINITION. The constants of this hardware and the free values the spec leaves open. -/

namespace Sys2Proof.Config

/-- The ID register: "BLF1" (10_state.md R31). -/
def idValue : Word := 0x424C4631

/-- The default of the parameter DMEM_BYTES (00_scope.md R6). -/
def dmemBytesDefault : Nat := 65536

/-- The values DMEM_BYTES may take (00_scope.md R6): 448 to 65536, a multiple of 4. -/
def dmemBytesAllowed (n : Nat) : Bool := decide (448 ≤ n) && decide (n ≤ 65536) && n % 4 == 0

/-- KEY_MIN_BYTES (00_scope.md R6). -/
abbrev keyMinBytes : Nat := 8

/-- KEY_MAX_BYTES (00_scope.md R6). -/
abbrev keyMaxBytes : Nat := 448

/-- IV_BYTES (00_scope.md R6). -/
abbrev ivBytes : Nat := 8

/-- Free value: what a read of a DMEM byte that no agent has written since reset gives, for draw number `d`
(20_memory.md R75, 93_implementation_defined.md U4). Nothing constrains it. Log 3. -/
opaque unwrittenByte : Nat → Byte

/-- Free value: what a host read of DMEM, XL, XR, CTR_LO or CTR_HI gives while BUSY = 1, for draw number `d`
(20_memory.md R67, 93_implementation_defined.md U3). Nothing constrains it. Log 3. -/
opaque busyReadWord : Nat → Word

/-- Free value: entry `k` of the cipher state (0 to 17 the P-array, 18 + 256 j + n the S-boxes) after a reset event
with draw number `d` (70_reset_and_hazards.md R271, 93_implementation_defined.md U2). Nothing constrains it. Log 2. -/
opaque resetCipherWord : Nat → Nat → Word

end Sys2Proof.Config
end

