-- ==== Sys2Proof/Machine/State.lean ====
section
/-! DEFINITION. The state of the core as plain data (10_state.md, 20_memory.md), its stop reasons, and reset. -/

namespace Sys2Proof.Machine

/-- A block: 8 bytes in address order, `b0` at the lowest address (00_scope.md R6). -/
structure Block where
  b0 : Byte
  b1 : Byte
  b2 : Byte
  b3 : Byte
  b4 : Byte
  b5 : Byte
  b6 : Byte
  b7 : Byte
deriving DecidableEq, Repr

/-- The cipher state, the source's "Codec": the P-array (10_state.md R25) and the four S-boxes (R26). -/
structure Codec where
  P : Vector Word 18
  S : Vector (Vector Word 256) 4
deriving DecidableEq, Repr

/-- The eight RW registers (10_state.md R22). -/
structure OperandRegs where
  addr : Word
  len : Word
  ivaddr : Word
  ivlen : Word
  ctrLo : Word
  ctrHi : Word
  xl : Word
  xr : Word
deriving DecidableEq, Repr

/-- STATUS.RESULT (10_state.md R24). -/
inductive Result
  | noOutcome
  | ok
  | declined
  | error
deriving DecidableEq, Repr

/-- STATUS.ERRCODE (10_state.md R24, 60_exceptions.md R235 to R238). -/
inductive ErrCode
  | noError
  | invalidKey
  | noKey
  | range
  | illegalCmd
deriving DecidableEq, Repr

/-- STATUS less BUSY, which is the fullness of the pending-command latch (10_state.md R24). -/
structure Status where
  keyValid : Bool
  result : Result
  errcode : ErrCode
  ovr : Bool
deriving DecidableEq, Repr

/-- The pending-command latch when full: the accepted word and the operand registers as they were (10_state.md R34).
The meanings read the registers, which equal the copy. Log 10. -/
structure Latch where
  word : Word
  operands : OperandRegs
deriving DecidableEq, Repr

/-- What can happen next. A host access names a word of the host window by offset bits 16:2 (20_memory.md R60, R61);
`wait` is the HOST's loop of reads of STATUS until BUSY = 0 (30_encoding.md R98), and `polls` bounds how many of them
still see BUSY = 1 before the CORE has its turn; `coreTurn` gives the CORE its turn: it completes the accepted command if
there is one (60_exceptions.md R231); `reset` asserts the reset input (70_reset_and_hazards.md R270). Logs 4, 12. -/
inductive Event
  | write (off : BitVec 15) (data : Word) (be : BitVec 4)
  | read (off : BitVec 15)
  | wait (polls : Nat)
  | coreTurn
  | reset
deriving DecidableEq, Repr

/-- DMEM: the bytes written since reset, by address, in one canonical form (20_memory.md R62, R75).
An address that is not listed holds no value. -/
abbrev Memory := List Host.Cell

/-- The canonical form of a memory: addresses strictly rising. Every listed byte is a value of its own, since an
unlisted address reads as no value at all. -/
abbrev Memory.wf (m : Memory) : Prop := m.Pairwise (fun x y => x.1 < y.1)

/-- The state of the core (10_state.md R20). -/
structure State where
  /-- DMEM_BYTES, what DMEMSZ reads (00_scope.md R6, 10_state.md R31). A parameter: nothing writes it. Log 1. -/
  dmemBytes : Nat
  /-- The RW registers (10_state.md R22). -/
  regs : OperandRegs
  /-- STATUS (10_state.md R24). -/
  status : Status
  /-- P and S (10_state.md R25, R26). -/
  codec : Codec
  /-- DMEM (20_memory.md R62). -/
  dmem : Memory
  /-- The pending-command latch; BUSY is 1 while it is full (10_state.md R34, 60_exceptions.md R230). -/
  latch : Option Latch
  /-- The model's own: the events still to come, in order. Log 4. -/
  agenda : List Event
  /-- The model's own: the words that host reads returned, newest first. Log 5. -/
  observed : List Word
  /-- The model's own: the number of the next free value. Log 3. -/
  draws : Nat
deriving DecidableEq, Repr

/-- Why the machine stops with a fault: never. Every error of the core is an outcome in STATUS
(60_exceptions.md R243), and the unwritten byte of 93_implementation_defined.md U4 is a free value, which is safe. -/
inductive Fault
deriving DecidableEq, Repr

/-- Why an instruction is refused. -/
inductive Refusal
  /-- Raised by exec's arm of an instruction that has no meaning yet; no arm does. Safe. -/
  | notModelled (mnemonic : String)
deriving DecidableEq, Repr

/-- The answer of a meaning. -/
abbrev Answer := Host.Outcome State Fault Refusal

/-- The RW registers after reset: all zero (10_state.md R21). -/
def OperandRegs.reset : OperandRegs :=
  { addr := 0, len := 0, ivaddr := 0, ivlen := 0, ctrLo := 0, ctrHi := 0, xl := 0, xr := 0 }

/-- STATUS after reset: 0x00000000 (10_state.md R24). -/
def Status.reset : Status := { keyValid := false, result := .noOutcome, errcode := .noError, ovr := false }

/-- P and S right after power-up: all zero. DESIGN CHOICE, unsafe in form: the spec gives no value
(70_reset_and_hazards.md R271). No command reads it, since KEY_VALID is 0. Log 2. -/
def Codec.reset : Codec := { P := Vector.replicate 18 0, S := Vector.replicate 4 (Vector.replicate 256 0) }

/-- The machine right after reset (70_reset_and_hazards.md R270), with the default DMEM_BYTES. -/
def State.reset : State :=
  { dmemBytes := Config.dmemBytesDefault, regs := OperandRegs.reset, status := Status.reset, codec := Codec.reset,
    dmem := [], latch := none, agenda := [], observed := [], draws := 0 }

end Sys2Proof.Machine
end

