-- ==== Sys2Proof/Machine/Flags.lean ====
section
/-! DEFINITION. The STATUS register: its codes, the word a host reads, and the updates of its fields (10_state.md R24). -/

namespace Sys2Proof.Machine

/-- The RESULT field (10_state.md R24). -/
def Result.code : Result → BitVec 2
  | .noOutcome => 0
  | .ok => 1
  | .declined => 2
  | .error => 3

/-- The ERRCODE field (10_state.md R24). -/
def ErrCode.code : ErrCode → BitVec 4
  | .noError => 0
  | .invalidKey => 1
  | .noKey => 2
  | .range => 3
  | .illegalCmd => 4

/-- STATUS.BUSY: 1 from acceptance, which fills the latch, to completion, which empties it
(10_state.md R24, R34; 60_exceptions.md R230, R231). Log 7. -/
abbrev State.busy (s : State) : Bool := s.latch.isSome

/-- The word a read of STATUS returns, reserved bits 0 (10_state.md R24). -/
def statusWord (s : State) : Word :=
  (0#15) ++ BitVec.ofBool s.status.ovr ++ (0#4) ++ s.status.errcode.code ++ (0#2) ++ s.status.result.code ++ (0#2)
    ++ BitVec.ofBool s.status.keyValid ++ BitVec.ofBool s.busy

/-- STATUS.RESULT and STATUS.ERRCODE, the core's condition codes (10_state.md R24). -/
def Status.withOutcome (t : Status) (r : Result) (e : ErrCode) : Status := { t with result := r, errcode := e }

/-- STATUS.KEY_VALID <- 1 (40_codec.md R130). -/
def Status.withKey (t : Status) : Status := { t with keyValid := true }

/-- STATUS.OVR <- b (10_state.md R24, 20_memory.md R67). -/
def Status.withOvr (t : Status) (b : Bool) : Status := { t with ovr := b }

end Sys2Proof.Machine
end

