-- ==== Sys2Proof/Machine/Operands.lean ====
section
/-! DEFINITION. The operand forms: bytes of words, byte order, the counter, and the operand registers as numbers. -/

namespace Sys2Proof.Machine

/-- `byteN(x) = x[8n+7:8n]`: byte 3 is the most significant (00_scope.md R10). -/
def byteN (x : Word) (n : Nat) : Byte := x.extractLsb' (8 * n) 8

/-- `be32(b0, b1, b2, b3)`: the word whose most significant byte is `b0` (00_scope.md R12). -/
def be32 (b0 b1 b2 b3 : Byte) : Word := b0 ++ b1 ++ b2 ++ b3

/-- The word whose least significant byte is `b0`: the host's little-endian byte lanes (20_memory.md R64). -/
def le32 (b0 b1 b2 b3 : Byte) : Word := be32 b3 b2 b1 b0

/-- `Unpack(B)`: the two halves of a block, big-endian (40_codec.md R125). -/
def unpack (b : Block) : Word × Word := (be32 b.b0 b.b1 b.b2 b.b3, be32 b.b4 b.b5 b.b6 b.b7)

/-- `Pack(l, r) = unbe32(l) ++ unbe32(r)` (40_codec.md R125, 00_scope.md R12). -/
def pack (x : Word × Word) : Block :=
  { b0 := byteN x.1 3, b1 := byteN x.1 2, b2 := byteN x.1 1, b3 := byteN x.1 0,
    b4 := byteN x.2 3, b5 := byteN x.2 2, b6 := byteN x.2 1, b7 := byteN x.2 0 }

/-- `le64bytes(c)`: the bytes of the counter, least significant first (00_scope.md R12). -/
def le64bytes (c : Counter) : Block :=
  { b0 := c.extractLsb' 0 8, b1 := c.extractLsb' 8 8, b2 := c.extractLsb' 16 8, b3 := c.extractLsb' 24 8,
    b4 := c.extractLsb' 32 8, b5 := c.extractLsb' 40 8, b6 := c.extractLsb' 48 8, b7 := c.extractLsb' 56 8 }

/-- Bytewise XOR of two blocks (00_scope.md R11). -/
def Block.xor (x y : Block) : Block :=
  { b0 := x.b0 ^^^ y.b0, b1 := x.b1 ^^^ y.b1, b2 := x.b2 ^^^ y.b2, b3 := x.b3 ^^^ y.b3,
    b4 := x.b4 ^^^ y.b4, b5 := x.b5 ^^^ y.b5, b6 := x.b6 ^^^ y.b6, b7 := x.b7 ^^^ y.b7 }

/-- The 8 bytes of a block in address order (00_scope.md R9). -/
def Block.toList (b : Block) : List Byte := [b.b0, b.b1, b.b2, b.b3, b.b4, b.b5, b.b6, b.b7]

/-- The block whose byte `k` is `f k`. -/
def Block.ofFn (f : Nat → Byte) : Block :=
  { b0 := f 0, b1 := f 1, b2 := f 2, b3 := f 3, b4 := f 4, b5 := f 5, b6 := f 6, b7 := f 7 }

/-- ADDR as a DMEM offset, unsigned (10_state.md R29, 30_encoding.md R94). -/
abbrev State.dataAddr (s : State) : Nat := s.regs.addr.toNat

/-- LEN as a byte count, unsigned (10_state.md R29, 30_encoding.md R94). -/
abbrev State.dataLen (s : State) : Nat := s.regs.len.toNat

/-- IVADDR as a DMEM offset, unsigned (10_state.md R29, 30_encoding.md R94). -/
abbrev State.ivAddr (s : State) : Nat := s.regs.ivaddr.toNat

/-- IVLEN as a byte count, unsigned (10_state.md R29, 30_encoding.md R94). -/
abbrev State.ivLen (s : State) : Nat := s.regs.ivlen.toNat

/-- The counter `CTR_HI || CTR_LO` (10_state.md R30). -/
def OperandRegs.counter (r : OperandRegs) : Counter := r.ctrHi ++ r.ctrLo

/-- Bits 63:32 of the counter to CTR_HI, bits 31:0 to CTR_LO (43_ctr.md R206). -/
def OperandRegs.withCounter (r : OperandRegs) (c : Counter) : OperandRegs :=
  { r with ctrHi := c.extractLsb' 32 32, ctrLo := c.extractLsb' 0 32 }

/-- The pair in XL, XR (10_state.md R30). -/
def OperandRegs.pair (r : OperandRegs) : Word × Word := (r.xl, r.xr)

/-- XL, XR <- x (40_codec.md R134, R135). -/
def OperandRegs.withPair (r : OperandRegs) (x : Word × Word) : OperandRegs := { r with xl := x.1, xr := x.2 }

end Sys2Proof.Machine
end

