-- ==== Sys2Proof/Machine/Ops.lean ====
section
/-! DEFINITION. The shared operations: loops, data memory, state updates, the three outcomes of a command, acceptance
and reset. -/

namespace Sys2Proof.Machine

/-- `for i in 0, 1, ..., n - 1`, in the order written (00_scope.md R13). -/
def loop {σ : Type} (n : Nat) (body : Nat → σ → σ) (init : σ) : σ :=
  match n with
  | 0 => init
  | k + 1 => body k (loop k body init)

/-- The byte written last at `a` since reset, if any (20_memory.md R75). -/
def Memory.get? (m : Memory) (a : Nat) : Option Byte :=
  match m with
  | [] => none
  | (k, v) :: rest => if k = a then some v else Memory.get? rest a

/-- `DMEM[a] <- b`, keeping addresses strictly rising (00_scope.md R13). -/
def Memory.put (m : Memory) (a : Nat) (b : Byte) : Memory :=
  match m with
  | [] => [(a, b)]
  | (k, v) :: rest =>
    if a < k then (a, b) :: (k, v) :: rest
    else if a = k then (a, b) :: rest
    else (k, v) :: Memory.put rest a b

/-- A read of `DMEM[a]` that uses draw number `d` if the byte is unwritten (20_memory.md R75). Log 3. -/
def Memory.byteAt (m : Memory) (a d : Nat) : Byte := (m.get? a).getD (Config.unwrittenByte d)

/-- `MemRead(a, n)`: byte `k` has draw number `d + k` (00_scope.md R13). -/
def Memory.read (m : Memory) (a n d : Nat) : List Byte := (List.range n).map fun k => m.byteAt (a + k) (d + k)

/-- `MemRead(a, 8)` as a block (00_scope.md R13). -/
def Memory.readBlock (m : Memory) (a d : Nat) : Block := Block.ofFn fun k => m.byteAt (a + k) (d + k)

/-- `MemWrite(a, n, v)` for the byte sequence `v` (00_scope.md R13). -/
def Memory.write (m : Memory) (a : Nat) (v : List Byte) : Memory :=
  match v with
  | [] => m
  | b :: rest => Memory.write (m.put a b) (a + 1) rest

/-- `MemWrite(a, 8, b)` (00_scope.md R13). -/
def Memory.writeBlock (m : Memory) (a : Nat) (b : Block) : Memory := m.write a b.toList

/-- DMEM <- m. -/
def State.withDmem (s : State) (m : Memory) : State := { s with dmem := m }

/-- The RW registers <- r. -/
def State.withRegs (s : State) (r : OperandRegs) : State := { s with regs := r }

/-- STATUS <- t (BUSY apart). -/
def State.withStatus (s : State) (t : Status) : State := { s with status := t }

/-- P, S <- c; only KEYSET does this (10_state.md R25, R26). -/
def State.withCodec (s : State) (c : Codec) : State := { s with codec := c }

/-- The pending-command latch <- l (10_state.md R34). -/
def State.withLatch (s : State) (l : Option Latch) : State := { s with latch := l }

/-- The events still to come <- es. -/
def State.withAgenda (s : State) (es : List Event) : State := { s with agenda := es }

/-- `n` free values have been used. -/
def State.usedDraws (s : State) (n : Nat) : State := { s with draws := s.draws + n }

/-- A host read returned `w`. -/
def State.observe (s : State) (w : Word) : State := { s with observed := w :: s.observed }

/-- The completion of a command: RESULT, ERRCODE, and BUSY <- 0 by emptying the latch (60_exceptions.md R231). -/
def State.complete (s : State) (r : Result) (e : ErrCode) : State :=
  (s.withStatus (s.status.withOutcome r e)).withLatch none

/-- `finish`: the OK outcome (60_exceptions.md R232). -/
def finish (s : State) : Answer := .next (s.complete .ok .noError)

/-- `decline`: the DECLINED outcome; nothing else changes (60_exceptions.md R233). -/
def decline (s : State) : Answer := .next (s.complete .declined .noError)

/-- `raise Error(code)`: the ERROR outcome, the core's only exception (60_exceptions.md R234, R243).
It saves nothing but ERRCODE and goes nowhere; there is no return from it (R244). -/
def raiseError (code : ErrCode) (s : State) : Answer := .next (s.complete .error code)

/-- Acceptance of command word `w` (60_exceptions.md R230, 10_state.md R34). -/
def accept (w : Word) (s : State) : State :=
  (s.withStatus (s.status.withOutcome .noOutcome .noError)).withLatch (some { word := w, operands := s.regs })

/-- A host access dropped because BUSY = 1 (20_memory.md R67). -/
def dropAccess (s : State) : State := s.withStatus (s.status.withOvr true)

/-- The cipher state after a reset event: free values for draw number `d` (70_reset_and_hazards.md R271). Log 2. -/
def Codec.afterReset (d : Nat) : Codec :=
  { P := Vector.ofFn fun i => Config.resetCipherWord d i.val,
    S := Vector.ofFn fun j => Vector.ofFn fun n => Config.resetCipherWord d (18 + 256 * j.val + n.val) }

/-- The reset input, from any state (70_reset_and_hazards.md R270 to R272). The parameter DMEM_BYTES and the model's own
fields stay. -/
def resetCore (s : State) : State :=
  { dmemBytes := s.dmemBytes, regs := OperandRegs.reset, status := Status.reset, codec := Codec.afterReset s.draws,
    dmem := [], latch := none, agenda := s.agenda, observed := s.observed, draws := s.draws + 1 }

end Sys2Proof.Machine
end

