-- ==== Sys2Proof/Machine/Bus.lean ====
section
/-! DEFINITION. The host window: the address map, host writes and host reads (20_memory.md R60 to R68). -/

namespace Sys2Proof.Machine

/-- The byte offset of a register (10_state.md R21). -/
def regOffset : RegName → Nat
  | .cmd => 0x00
  | .status => 0x04
  | .addr => 0x08
  | .len => 0x0C
  | .ivaddr => 0x10
  | .ivlen => 0x14
  | .ctrLo => 0x18
  | .ctrHi => 0x1C
  | .xl => 0x20
  | .xr => 0x24
  | .id => 0x28
  | .dmemsz => 0x2C

/-- The register at a byte offset of the register block, if it is not reserved (10_state.md R21, 30_encoding.md R97). -/
def regAt (off : Nat) : Option RegName :=
  [RegName.cmd, .status, .addr, .len, .ivaddr, .ivlen, .ctrLo, .ctrHi, .xl, .xr, .id, .dmemsz].find?
    fun r => regOffset r == off

/-- What a word of the host window is (20_memory.md R61, R64, R65). -/
inductive Target
  | reg (r : RegName)
  | dmem (a : Nat)
  | reserved
deriving DecidableEq, Repr

/-- The byte offset of a word of the host window: the bus carries bits 16:2 (20_memory.md R61). Log 6. -/
def byteOffset (off : BitVec 15) : Nat := 4 * off.toNat

/-- Offset bits 16:2 of a byte offset of the host window (20_memory.md R61). -/
def wordOffset (off : Nat) : BitVec 15 := BitVec.ofNat 15 (off / 4)

/-- The address map of the host window (20_memory.md R61, R64, R65; 30_encoding.md R97). -/
def targetOf (dmemBytes : Nat) (off : BitVec 15) : Target :=
  if byteOffset off < 0x10000 then
    match regAt (byteOffset off) with
    | some r => .reg r
    | none => .reserved
  else if byteOffset off - 0x10000 < dmemBytes then .dmem (byteOffset off - 0x10000)
  else .reserved

/-- The word a read of a register returns when it is not a free value (10_state.md R21, R24, R28, R31). -/
def regValue (r : RegName) (s : State) : Word :=
  match r with
  | .cmd => 0
  | .status => statusWord s
  | .addr => s.regs.addr
  | .len => s.regs.len
  | .ivaddr => s.regs.ivaddr
  | .ivlen => s.regs.ivlen
  | .ctrLo => s.regs.ctrLo
  | .ctrHi => s.regs.ctrHi
  | .xl => s.regs.xl
  | .xr => s.regs.xr
  | .id => Config.idValue
  | .dmemsz => BitVec.ofNat 32 s.dmemBytes

/-- The registers a command may be writing: a read of one while BUSY = 1 gives an unspecified value (20_memory.md R67). -/
def volatileReg : RegName → Bool
  | .xl | .xr | .ctrLo | .ctrHi => true
  | .cmd | .status | .addr | .len | .ivaddr | .ivlen | .id | .dmemsz => false

/-- The register block with RW register `r` holding `v`; other registers are not written so (10_state.md R21, R22). -/
def OperandRegs.write (x : OperandRegs) (r : RegName) (v : Word) : OperandRegs :=
  match r with
  | .addr => { x with addr := v }
  | .len => { x with len := v }
  | .ivaddr => { x with ivaddr := v }
  | .ivlen => { x with ivlen := v }
  | .ctrLo => { x with ctrLo := v }
  | .ctrHi => { x with ctrHi := v }
  | .xl => { x with xl := v }
  | .xr => { x with xr := v }
  | .cmd | .status | .id | .dmemsz => x

/-- A host write of a whole register word (10_state.md R24, R28, R31; 20_memory.md R66, R67; 30_encoding.md R97). -/
def writeReg (r : RegName) (v : Word) (s : State) : State :=
  match r with
  | .id | .dmemsz => s
  | .status => if v.getLsbD 16 then s.withStatus (s.status.withOvr false) else s
  | .cmd => if s.busy then dropAccess s else accept v s
  | .addr | .len | .ivaddr | .ivlen | .ctrLo | .ctrHi | .xl | .xr =>
    if s.busy then dropAccess s else s.withRegs (s.regs.write r v)

/-- Byte lane `j` of a DMEM write: `DMEM[a+j] <- data[8j+7:8j]` if enabled (20_memory.md R64). -/
def writeLane (a : Nat) (data : Word) (be : BitVec 4) (j : Nat) (m : Memory) : Memory :=
  if be.getLsbD j then m.put (a + j) (data.extractLsb' (8 * j) 8) else m

/-- A host write of the DMEM word at `a` (20_memory.md R64, R67). While busy it is dropped whatever its byte enables.
Log 9. -/
def writeDmemWord (a : Nat) (data : Word) (be : BitVec 4) (s : State) : State :=
  if s.busy then dropAccess s else s.withDmem (loop 4 (writeLane a data be) s.dmem)

/-- `RegWrite(off, data, be)` (20_memory.md R60). A register write without all four byte enables is ignored (R68). -/
def hostWrite (off : BitVec 15) (data : Word) (be : BitVec 4) (s : State) : State :=
  match targetOf s.dmemBytes off with
  | .reg r => if be = 0b1111#4 then writeReg r data s else s
  | .dmem a => writeDmemWord a data be s
  | .reserved => s

/-- A host read that returns an unspecified value (20_memory.md R67, 93_implementation_defined.md U3). -/
def readFree (s : State) : State := (s.observe (Config.busyReadWord s.draws)).usedDraws 1

/-- A host read of a register (20_memory.md R67). -/
def readReg (r : RegName) (s : State) : State :=
  if s.busy && volatileReg r then readFree s else s.observe (regValue r s)

/-- A host read of the DMEM word at `a`, little-endian lanes (20_memory.md R64, R67). -/
def readDmemWord (a : Nat) (s : State) : State :=
  if s.busy then readFree s
  else
    let b := fun k => s.dmem.byteAt (a + k) (s.draws + k)
    (s.observe (le32 (b 0) (b 1) (b 2) (b 3))).usedDraws 4

/-- `RegRead(off)` (20_memory.md R60). Reserved words read 0 (R65; 30_encoding.md R97). -/
def hostRead (off : BitVec 15) (s : State) : State :=
  match targetOf s.dmemBytes off with
  | .reg r => readReg r s
  | .dmem a => readDmemWord a s
  | .reserved => s.observe 0

end Sys2Proof.Machine
end

