-- ==== Sys2Proof/Machine/Cipher.lean ====
section
/-! DEFINITION. The pure functions of the cipher core: F, the round, Encipher, Decipher, the block transforms and the
key schedule (40_codec.md R121 to R129). -/

namespace Sys2Proof.Machine

/-- P[i], for i in 0..17 (40_codec.md R122); no rule reads another i. -/
def Codec.subkey (c : Codec) (i : Nat) : Word := c.P.getD i 0

/-- S[j][n], for a byte n (40_codec.md R121). -/
def Codec.sbox (c : Codec) (j : Fin 4) (n : Byte) : Word := c.S[j][n.toNat]

/-- The round function (40_codec.md R121). -/
def roundF (c : Codec) (x : Word) : Word :=
  ((c.sbox 0 (byteN x 3) + c.sbox 1 (byteN x 2)) ^^^ c.sbox 2 (byteN x 1)) + c.sbox 3 (byteN x 0)

/-- `round(a, b, k) = F(b) XOR P[k] XOR a` (40_codec.md R122). -/
def roundStep (c : Codec) (a b : Word) (k : Nat) : Word := roundF c b ^^^ c.subkey k ^^^ a

/-- Rounds i + 1 and i + 2 of Encipher, for i = 2 m (40_codec.md R123). -/
def encipherPair (c : Codec) (m : Nat) (x : Word × Word) : Word × Word :=
  let xr := roundStep c x.2 x.1 (2 * m + 1)
  let xl := roundStep c x.1 xr (2 * m + 2)
  (xl, xr)

/-- Encipher (40_codec.md R123): `i` runs over 0, 2, ..., 14. -/
def encipher (c : Codec) (x : Word × Word) : Word × Word :=
  let y := loop 8 (encipherPair c) (x.1 ^^^ c.subkey 0, x.2)
  (y.2 ^^^ c.subkey 17, y.1)

/-- Rounds i and i - 1 of Decipher, for i = 16 - 2 m (40_codec.md R124). -/
def decipherPair (c : Codec) (m : Nat) (x : Word × Word) : Word × Word :=
  let xr := roundStep c x.2 x.1 (16 - 2 * m)
  let xl := roundStep c x.1 xr (16 - 2 * m - 1)
  (xl, xr)

/-- Decipher (40_codec.md R124): `i` runs over 16, 14, ..., 2. -/
def decipher (c : Codec) (x : Word × Word) : Word × Word :=
  let y := loop 8 (decipherPair c) (x.1 ^^^ c.subkey 17, x.2)
  (y.2 ^^^ c.subkey 0, y.1)

/-- `BlockEnc(B) = Pack(Encipher(Unpack(B)))` (40_codec.md R125). -/
def blockEnc (c : Codec) (b : Block) : Block := pack (encipher c (unpack b))

/-- `BlockDec(B) = Pack(Decipher(Unpack(B)))` (40_codec.md R125). -/
def blockDec (c : Codec) (b : Block) : Block := pack (decipher c (unpack b))

/-- Byte `m mod L` of a key of L bytes (40_codec.md R127). -/
def keyByte (key : List Byte) (m : Nat) : Byte := key.getD (m % key.length) 0

/-- `KW[i]`: four key bytes, the first most significant, wrapping through the key (40_codec.md R127). -/
def keyWord (key : List Byte) (i : Nat) : Word :=
  be32 (keyByte key (4 * i)) (keyByte key (4 * i + 1)) (keyByte key (4 * i + 2)) (keyByte key (4 * i + 3))

/-- The four initial S-boxes (10_state.md R33). -/
def initBoxes : Vector (Vector Word 256) 4 :=
  #v[⟨initS0.toArray, by decide +kernel⟩, ⟨initS1.toArray, by decide +kernel⟩,
     ⟨initS2.toArray, by decide +kernel⟩, ⟨initS3.toArray, by decide +kernel⟩]

/-- Step 1 of the key schedule: P and S hold the INIT table (40_codec.md R128, 10_state.md R33). -/
def initCodec : Codec := { P := ⟨initP.toArray, by decide +kernel⟩, S := initBoxes }

/-- Step 2 of the key schedule: `P[i] <- P[i] XOR KW[i]` (40_codec.md R128). -/
def mixKey (key : List Byte) (c : Codec) : Codec :=
  { c with P := Vector.ofFn fun i => c.P[i] ^^^ keyWord key i.val }

/-- The working state of KEYSET: the tables as they stand and the running pair (10_state.md R35). Log 8. -/
structure KeyWork where
  codec : Codec
  l : Word
  r : Word
deriving DecidableEq, Repr

/-- `(l, r) <- Encipher(l, r)`, with P and S as they stand (40_codec.md R128). -/
def KeyWork.advance (w : KeyWork) : KeyWork :=
  let x := encipher w.codec (w.l, w.r)
  { w with l := x.1, r := x.2 }

/-- `P[i] <- l ; P[i+1] <- r` (40_codec.md R128). -/
def KeyWork.storeP (i : Nat) (w : KeyWork) : KeyWork :=
  { w with codec := { w.codec with P := (w.codec.P.setIfInBounds i w.l).setIfInBounds (i + 1) w.r } }

/-- `S[j][n] <- l ; S[j][n+1] <- r`, for j in 0..3 (40_codec.md R128). -/
def KeyWork.storeS (j n : Nat) (w : KeyWork) : KeyWork :=
  if h : j < 4 then
    let box := (w.codec.S[j].setIfInBounds n w.l).setIfInBounds (n + 1) w.r
    { w with codec := { w.codec with S := w.codec.S.set j box } }
  else w

/-- Step 3 of the key schedule: 9 + 4 * 128 encipherments, strictly in order (40_codec.md R128, R129). -/
def rederive (c : Codec) : KeyWork :=
  let w := loop 9 (fun m w => w.advance.storeP (2 * m)) { codec := c, l := 0, r := 0 }
  loop 4 (fun j w => loop 128 (fun m w => w.advance.storeS j (2 * m)) w) w

/-- KeySchedule (40_codec.md R128). Irreducible, so that no proof about a state that holds its result runs it. -/
@[irreducible] def keySchedule (key : List Byte) : Codec := (rederive (mixKey key initCodec)).codec

end Sys2Proof.Machine
end

