-- ==== Sys2Proof/Machine/Cbc.lean ====
section
/-! DEFINITION. The meanings of CBC_ENC and CBC_DEC (42_cbc.md R180 to R183). -/

namespace Sys2Proof.Machine

/-- The working state of a CBC command: data memory and the "previous" ciphertext block (10_state.md R36). Log 8. -/
structure CbcWork where
  dmem : Memory
  prev : Block
deriving DecidableEq, Repr

/-- One pass of CBC encryption: block `i` of the data at `a` (42_cbc.md R182). -/
def cbcEncBlock (c : Codec) (a d i : Nat) (w : CbcWork) : CbcWork :=
  let x := (w.dmem.readBlock (a + 8 * i) (d + 8 * i)).xor w.prev
  let y := blockEnc c x
  { dmem := w.dmem.writeBlock (a + 8 * i) y, prev := y }

/-- One pass of CBC decryption: the ciphertext read is saved before it is overwritten (42_cbc.md R183). -/
def cbcDecBlock (c : Codec) (a d i : Nat) (w : CbcWork) : CbcWork :=
  let x := w.dmem.readBlock (a + 8 * i) (d + 8 * i)
  { dmem := w.dmem.writeBlock (a + 8 * i) ((blockDec c x).xor w.prev), prev := x }

/-- The shape of CBC_ENC and CBC_DEC: the IV is read first, then the blocks are passed through in order
(42_cbc.md R180, R182, R183). -/
def cbcCommand (pass : Codec → Nat → Nat → Nat → CbcWork → CbcWork) (s : State) : Answer :=
  if s.status.keyValid = false then raiseError .noKey s
  else if s.dataLen = 0 ∨ s.dataLen % 8 ≠ 0 ∨ s.ivLen ≠ Config.ivBytes then decline s
  else if s.dataAddr + s.dataLen > s.dmemBytes ∨ s.ivAddr + 8 > s.dmemBytes then raiseError .range s
  else
    let iv := s.dmem.readBlock s.ivAddr s.draws
    let w := loop (s.dataLen / 8) (pass s.codec s.dataAddr (s.draws + 8)) { dmem := s.dmem, prev := iv }
    finish ((s.withDmem w.dmem).usedDraws (8 + s.dataLen))

/-- CBC_ENC (42_cbc.md R182). -/
def execCbcEnc (s : State) : Answer := cbcCommand cbcEncBlock s

/-- CBC_DEC (42_cbc.md R183). -/
def execCbcDec (s : State) : Answer := cbcCommand cbcDecBlock s

end Sys2Proof.Machine
end

