-- ==== Sys2Proof/Machine/Codec.lean ====
section
/-! DEFINITION. The meanings of KEYSET, ENCIPHER, DECIPHER, BLK_ENC and BLK_DEC (40_codec.md R130 to R137). -/

namespace Sys2Proof.Machine

/-- KEYSET (40_codec.md R130). INVALID_KEY comes before RANGE, and neither changes the cipher state (R131). -/
def execKeyset (s : State) : Answer :=
  if s.dataLen < Config.keyMinBytes ∨ s.dataLen > Config.keyMaxBytes then raiseError .invalidKey s
  else if s.dataAddr + s.dataLen > s.dmemBytes then raiseError .range s
  else
    let key := s.dmem.read s.dataAddr s.dataLen s.draws
    finish (((s.withCodec (keySchedule key)).withStatus s.status.withKey).usedDraws s.dataLen)

/-- The shape of ENCIPHER and DECIPHER: `f` on the pair in XL, XR (40_codec.md R134, R135). -/
def pairCommand (f : Codec → Word × Word → Word × Word) (s : State) : Answer :=
  if s.status.keyValid = false then raiseError .noKey s
  else finish (s.withRegs (s.regs.withPair (f s.codec s.regs.pair)))

/-- ENCIPHER (40_codec.md R134). -/
def execEncipher (s : State) : Answer := pairCommand encipher s

/-- DECIPHER (40_codec.md R135). -/
def execDecipher (s : State) : Answer := pairCommand decipher s

/-- The shape of BLK_ENC and BLK_DEC: `f` on the 8 bytes at ADDR; LEN is ignored (40_codec.md R136, R137). -/
def blockCommand (f : Codec → Block → Block) (s : State) : Answer :=
  if s.status.keyValid = false then raiseError .noKey s
  else if s.dataAddr + 8 > s.dmemBytes then raiseError .range s
  else
    let b := s.dmem.readBlock s.dataAddr s.draws
    finish ((s.withDmem (s.dmem.writeBlock s.dataAddr (f s.codec b))).usedDraws 8)

/-- BLK_ENC (40_codec.md R136). -/
def execBlkEnc (s : State) : Answer := blockCommand blockEnc s

/-- BLK_DEC (40_codec.md R137). -/
def execBlkDec (s : State) : Answer := blockCommand blockDec s

end Sys2Proof.Machine
end

