-- ==== Sys2Proof/Machine/Ctr.lean ====
section
/-! DEFINITION. The meaning of CTR_CRYPT (43_ctr.md R200 to R206). -/

namespace Sys2Proof.Machine

/-- `c_i = c0 +64 i` (43_ctr.md R203). -/
def ctrCounter (c0 : Counter) (i : Nat) : Counter := c0 + BitVec.ofNat 64 i

/-- `ks_i = BlockEnc(le64bytes(c_i) XOR iv)` (43_ctr.md R203). -/
def ctrKeystream (c : Codec) (iv : Block) (c0 : Counter) (i : Nat) : Block :=
  blockEnc c ((le64bytes (ctrCounter c0 i)).xor iv)

/-- `nb = ceil(L / 8)` (43_ctr.md R202). -/
def ctrBlocks (len : Nat) : Nat := (len + 7) / 8

/-- `n_i = min(8, L - 8 i)` (43_ctr.md R202). -/
def ctrBlockLen (len i : Nat) : Nat := min 8 (len - 8 * i)

/-- One pass of CTR: the leading keystream bytes go onto block `i` of the data at `a` (43_ctr.md R204, R205).
Logs 8, 11. -/
def ctrBlock (c : Codec) (iv : Block) (c0 : Counter) (a len d i : Nat) (m : Memory) : Memory :=
  let data := m.read (a + 8 * i) (ctrBlockLen len i) (d + 8 * i)
  m.write (a + 8 * i) (List.zipWith (· ^^^ ·) data (ctrKeystream c iv c0 i).toList)

/-- CTR_CRYPT (43_ctr.md R204): IV and counter are read first (R201), the counter is written back on OK (R206). -/
def execCtrCrypt (s : State) : Answer :=
  if s.status.keyValid = false then raiseError .noKey s
  else if s.dataLen = 0 ∨ s.ivLen ≠ Config.ivBytes then decline s
  else if s.dataAddr + s.dataLen > s.dmemBytes ∨ s.ivAddr + 8 > s.dmemBytes then raiseError .range s
  else
    let iv := s.dmem.readBlock s.ivAddr s.draws
    let c0 := s.regs.counter
    let nb := ctrBlocks s.dataLen
    let m := loop nb (ctrBlock s.codec iv c0 s.dataAddr s.dataLen (s.draws + 8)) s.dmem
    finish (((s.withDmem m).withRegs (s.regs.withCounter (ctrCounter c0 nb))).usedDraws (8 + s.dataLen))

end Sys2Proof.Machine
end

