-- ==== Sys2Proof/Machine/Ecb.lean ====
section
/-! DEFINITION. The meanings of ECB_ENC and ECB_DEC (41_ecb.md R160 to R163). -/

namespace Sys2Proof.Machine

/-- One pass of the ECB loop: block `i` of the data at `a`, read with draw numbers from `d + 8 i` (41_ecb.md R162).
The blocks run in ascending order. Log 11. -/
def ecbBlock (f : Block → Block) (a d i : Nat) (m : Memory) : Memory :=
  m.writeBlock (a + 8 * i) (f (m.readBlock (a + 8 * i) (d + 8 * i)))

/-- The shape of ECB_ENC and ECB_DEC: `f` on every block of [ADDR, ADDR+LEN), in place (41_ecb.md R162, R163). -/
def ecbCommand (f : Codec → Block → Block) (s : State) : Answer :=
  if s.status.keyValid = false then raiseError .noKey s
  else if s.dataLen = 0 ∨ s.dataLen % 8 ≠ 0 then decline s
  else if s.dataAddr + s.dataLen > s.dmemBytes then raiseError .range s
  else
    let m := loop (s.dataLen / 8) (ecbBlock (f s.codec) s.dataAddr s.draws) s.dmem
    finish ((s.withDmem m).usedDraws s.dataLen)

/-- ECB_ENC (41_ecb.md R162). -/
def execEcbEnc (s : State) : Answer := ecbCommand blockEnc s

/-- ECB_DEC (41_ecb.md R163). -/
def execEcbDec (s : State) : Answer := ecbCommand blockDec s

end Sys2Proof.Machine
end

