-- ==== Sys2Proof/Machine/Turn.lean ====
section
/-! DEFINITION. The CORE's turn, and a wait of the HOST, which alternates with it (60_exceptions.md R231,
30_encoding.md R98). -/

namespace Sys2Proof.Machine

/-- The completion step for command word `w`: the decoded command, or Error(ILLEGAL_CMD) (60_exceptions.md R231, R235). -/
def completeWord (w : Word) (s : State) : Host.Outcome State Fault Refusal :=
  match decode w with
  | .ok i => exec i s
  | .error _ => raiseError .illegalCmd s

/-- The CORE's turn: possible only when BUSY = 1, otherwise the core stays idle (60_exceptions.md R231, R255). -/
def coreStep (s : State) : Host.Outcome State Fault Refusal :=
  match s.latch with
  | some l => completeWord l.word s
  | none => .next s

/-- A host read of STATUS, `RegRead(0x04)` (30_encoding.md R98). -/
def pollStatus (s : State) : State := hostRead (wordOffset (regOffset .status)) s

/-- The next step of `wait`, repeat `RegRead(0x04)` until BUSY = 0 (30_encoding.md R98), `s.agenda` still to come after it.
A poll that sees BUSY = 0 ends the wait. Otherwise it goes on: with another poll, or, after `polls` of them, with the
CORE's turn, so that it ends (70_reset_and_hazards.md R281). Log 12. -/
def waitStep (polls : Nat) (s : State) : Host.Outcome State Fault Refusal :=
  if s.busy then
    match polls with
    | k + 1 => .next ((pollStatus s).withAgenda (.wait k :: s.agenda))
    | 0 => coreStep (s.withAgenda (.wait 0 :: s.agenda))
  else .next (pollStatus s)

end Sys2Proof.Machine
end

