-- ==== Sys2Proof/Machine/Step.lean ====
section
/-! DEFINITION. The step: the next event of the agenda, or the CORE's turn when there is none
(20_memory.md R60, 30_encoding.md R98, 60_exceptions.md R231, 70_reset_and_hazards.md R270, R281). -/

namespace Sys2Proof.Machine

/-- One event (20_memory.md R60, 30_encoding.md R98, 70_reset_and_hazards.md R270). -/
def eventStep (e : Event) (s : State) : Host.Outcome State Fault Refusal :=
  match e with
  | .write off data be => .next (hostWrite off data be s)
  | .read off => .next (hostRead off s)
  | .wait polls => waitStep polls s
  | .coreTurn => coreStep s
  | .reset => .next (resetCore s)

/-- One step: the first event of the agenda happens; with an empty agenda the CORE takes its turn, so a completion is
always taken in the end (70_reset_and_hazards.md R281). Log 4. -/
def step (s : State) : Host.Outcome State Fault Refusal :=
  match s.agenda with
  | e :: rest => eventStep e (s.withAgenda rest)
  | [] => coreStep s

/-- `s` with the command word of a table row accepted and the CORE's turn next: the next step completes exactly it.
Log 4. -/
def State.withFetchWord (s : State) (nbits w : Nat) : State :=
  (accept (tableWord nbits w) s).withAgenda (.coreTurn :: s.agenda)

end Sys2Proof.Machine
end

