-- ==== Sys2Proof/Machine/HostProgram.lean ====
section
/-! DEFINITION. Host programs: the bus accesses of a base line, and the expansion of the pseudo-instructions
(30_encoding.md R98 to R100). -/

namespace Sys2Proof.Machine

/-- `RegWrite(offset(REG), v, 0b1111)` (30_encoding.md R98). -/
def wrEvent (r : RegName) (v : Word) : Event := .write (wordOffset (regOffset r)) v 0b1111

/-- The accesses of a base line (30_encoding.md R98). How many reads of a `wait` come before the completion is not fixed
(70_reset_and_hazards.md R281): `polls` bounds it. Log 12. -/
def lineEvents (polls : Nat) (l : HostLine) : List Event :=
  match l with
  | .wr r v => [wrEvent r v]
  | .rd r => [.read (wordOffset (regOffset r))]
  | .dw off v => [.write (wordOffset (0x10000 + off)) v 0b1111]
  | .dwb off v be => [.write (wordOffset (0x10000 + off)) v be]
  | .drd off => [.read (wordOffset (0x10000 + off))]
  | .cmd i => [wrEvent .cmd (encode i)]
  | .wait => [.wait polls]

/-- One byte of a `db` line (30_encoding.md R99). -/
def dbLine (a : Nat) (b : Byte) : HostLine :=
  .dwb (a - a % 4) (b.setWidth 32 <<< (8 * (a % 4))) ((1#4) <<< (a % 4))

/-- `db off, B0 B1 ... Bn-1` (30_encoding.md R99). -/
def dbLines (off : Nat) (bytes : List Byte) : List HostLine :=
  match bytes with
  | [] => []
  | b :: rest => dbLine off b :: dbLines (off + 1) rest

/-- `cmd MNEMONIC` / `wait` (30_encoding.md R99). -/
def runLines (i : Instr) : List HostLine := [.cmd i, .wait]

/-- The data operands of a mode command (30_encoding.md R99). -/
def dataLines (addr len : Word) : List HostLine := [.wr .addr addr, .wr .len len]

/-- The IV operands, always IVLEN = 8 (30_encoding.md R99). -/
def ivLines (ivaddr : Word) : List HostLine := [.wr .ivaddr ivaddr, .wr .ivlen 8]

/-- The counter operands, c[31:0] then c[63:32] (30_encoding.md R99). -/
def ctrLines (c : Int) : List HostLine :=
  [.wr .ctrLo ((BitVec.ofInt 64 c).extractLsb' 0 32), .wr .ctrHi ((BitVec.ofInt 64 c).extractLsb' 32 32)]

/-- The expansion of a pseudo-instruction (30_encoding.md R99). -/
def pseudoLines : Pseudo → List HostLine
  | .db off bytes => dbLines off bytes
  | .keyset addr len => dataLines addr len ++ runLines .keyset
  | .encipher xl xr => [.wr .xl xl, .wr .xr xr] ++ runLines .encipher
  | .decipher xl xr => [.wr .xl xl, .wr .xr xr] ++ runLines .decipher
  | .blkEnc addr => [.wr .addr addr] ++ runLines .blkEnc
  | .blkDec addr => [.wr .addr addr] ++ runLines .blkDec
  | .ecbEnc addr len => dataLines addr len ++ runLines .ecbEnc
  | .ecbDec addr len => dataLines addr len ++ runLines .ecbDec
  | .cbcEnc addr len iv => dataLines addr len ++ ivLines iv ++ runLines .cbcEnc
  | .cbcDec addr len iv => dataLines addr len ++ ivLines iv ++ runLines .cbcDec
  | .ctrCrypt addr len iv c => dataLines addr len ++ ivLines iv ++ ctrLines c ++ runLines .ctrCrypt
  | .ctrEnc addr len iv c => dataLines addr len ++ ivLines iv ++ ctrLines c ++ runLines .ctrCrypt
  | .ctrDec addr len iv c => dataLines addr len ++ ivLines iv ++ ctrLines c ++ runLines .ctrCrypt
  | .ctrCont addr len iv => dataLines addr len ++ ivLines iv ++ runLines .ctrCrypt

/-- What 70_reset_and_hazards.md R281 leaves open at one line of a program: whether the CORE has its turn before the line,
and the polls of the line if it is a `wait`. -/
structure Timing where
  turnFirst : Bool := false
  polls : Nat := 0
deriving DecidableEq, Repr

/-- The events of one line with its timing. -/
def timedEvents (t : Timing) (l : HostLine) : List Event :=
  if t.turnFirst then .coreTurn :: lineEvents t.polls l else lineEvents t.polls l

/-- The agenda of a program, each line with a timing of its own; a line beyond the list `ts` has
no turn of the CORE before it and no polls. Every time at which a command of the program can complete is some `ts`. -/
def programEvents (ts : List Timing) (lines : List HostLine) : List Event :=
  match lines with
  | [] => []
  | l :: rest => timedEvents (ts.headD {}) l ++ programEvents ts.tail rest

end Sys2Proof.Machine
end

