-- ==== Sys2Proof/Safety.lean ====
section
/-! DEFINITION. What the claims are stated with: the invariant of a run, the outcome tables of 60_exceptions.md, and the
regions a command writes. -/

namespace Sys2Proof.Machine

/-- Memory `m` holds the 8 bytes of `b` at `a`. -/
def Memory.holdsBlock (m : Memory) (a : Nat) (b : Block) : Prop := ∀ k < 8, m.get? (a + k) = b.toList[k]?

/-- Byte `k` of a block, for k in 0..7. -/
def Block.byte (b : Block) (k : Nat) : Byte := b.toList.getD k 0

/-- Every byte of [a, a + n) has been written since reset (20_memory.md R75). -/
def Memory.written (m : Memory) (a n : Nat) : Prop := ∀ k < n, (m.get? (a + k)).isSome

/-- Memories `m` and `m'` hold the same outside [a, a + n). -/
def Memory.sameOutside (m m' : Memory) (a n : Nat) : Prop := ∀ x, x < a ∨ a + n ≤ x → m'.get? x = m.get? x

/-- The regions [a, a + n) and [b, b + k) do not meet. -/
def apart (a n b k : Nat) : Prop := a + n ≤ b ∨ b + k ≤ a

/-- P and S hold the result of a KEYSET with a legal key (10_state.md R27). -/
def Codec.derived (c : Codec) : Prop :=
  ∃ key : List Byte, Config.keyMinBytes ≤ key.length ∧ key.length ≤ Config.keyMaxBytes ∧ c = keySchedule key

/-- The invariant of the core. -/
structure Inv (s : State) : Prop where
  /-- DMEM_BYTES is a value the parameter may take (00_scope.md R6). -/
  params : Config.dmemBytesAllowed s.dmemBytes = true
  /-- Data memory is in its canonical form. -/
  canonical : s.dmem.wf
  /-- Only bytes of DMEM are ever written (20_memory.md R62, R72). -/
  inside : ∀ c ∈ s.dmem, c.1 < s.dmemBytes
  /-- The latched operand registers equal the registers (10_state.md R34), and RESULT is NONE while a command runs. -/
  latched : ∀ l, s.latch = some l → l.operands = s.regs ∧ s.status.result = .noOutcome
  /-- ERRCODE is not 0 exactly when RESULT = ERROR (10_state.md R24). -/
  errors : s.status.errcode ≠ .noError ↔ s.status.result = .error
  /-- KEY_VALID = 1 only over the result of a KEYSET (10_state.md R27). -/
  keyed : s.status.keyValid = true → s.codec.derived
  /-- OK and DECLINED need a key (60_exceptions.md R236). -/
  settled : s.status.result = .ok ∨ s.status.result = .declined → s.status.keyValid = true
  /-- Error(NO_KEY) stands only without a key (60_exceptions.md R236). -/
  keyless : s.status.errcode = .noKey → s.status.keyValid = false

/-- Every command but KEYSET needs a key (60_exceptions.md R236). -/
def needsKey : Instr → Bool
  | .keyset => false
  | .encipher | .decipher | .blkEnc | .blkDec | .ecbEnc | .ecbDec | .cbcEnc | .cbcDec | .ctrCrypt => true

/-- The decline conditions (60_exceptions.md R233). -/
def declinesOn (i : Instr) (s : State) : Prop :=
  match i with
  | .ecbEnc | .ecbDec => s.dataLen = 0 ∨ s.dataLen % 8 ≠ 0
  | .cbcEnc | .cbcDec => s.dataLen = 0 ∨ s.dataLen % 8 ≠ 0 ∨ s.ivLen ≠ 8
  | .ctrCrypt => s.dataLen = 0 ∨ s.ivLen ≠ 8
  | .keyset | .encipher | .decipher | .blkEnc | .blkDec => False

/-- The RANGE conditions (60_exceptions.md R237). -/
def outOfRange (i : Instr) (s : State) : Prop :=
  match i with
  | .keyset => s.dataAddr + s.dataLen > s.dmemBytes
  | .blkEnc | .blkDec => s.dataAddr + 8 > s.dmemBytes
  | .ecbEnc | .ecbDec => s.dataAddr + s.dataLen > s.dmemBytes
  | .cbcEnc | .cbcDec | .ctrCrypt => s.dataAddr + s.dataLen > s.dmemBytes ∨ s.ivAddr + 8 > s.dmemBytes
  | .encipher | .decipher => False

/-- Which RESULT and ERRCODE a command ends with: the first condition that holds decides (60_exceptions.md R240). -/
inductive Ends (i : Instr) (s : State) : Result → ErrCode → Prop
  | invalidKey : i = .keyset → s.dataLen < 8 ∨ 448 < s.dataLen → Ends i s .error .invalidKey
  | noKey : needsKey i = true → s.status.keyValid = false → Ends i s .error .noKey
  | declined : needsKey i = true → s.status.keyValid = true → declinesOn i s → Ends i s .declined .noError
  | range : (i = .keyset → 8 ≤ s.dataLen ∧ s.dataLen ≤ 448) → (needsKey i = true → s.status.keyValid = true) →
      ¬ declinesOn i s → outOfRange i s → Ends i s .error .range
  | ok : (i = .keyset → 8 ≤ s.dataLen ∧ s.dataLen ≤ 448) → (needsKey i = true → s.status.keyValid = true) →
      ¬ declinesOn i s → ¬ outOfRange i s → Ends i s .ok .noError

/-- How many bytes at ADDR a command writes when it ends OK (30_encoding.md R93). -/
def writtenBytes (i : Instr) (s : State) : Nat :=
  match i with
  | .keyset | .encipher | .decipher => 0
  | .blkEnc | .blkDec => 8
  | .ecbEnc | .ecbDec | .cbcEnc | .cbcDec | .ctrCrypt => s.dataLen

/-- The key words as the pseudocode computes them: `w <- (w[23:0] || key[j]); j <- (j + 1) mod L`, four times a word,
`n` words from key index `j` on (40_codec.md R127). -/
def keyWordsFrom (key : List Byte) (n j : Nat) : List Word :=
  match n with
  | 0 => []
  | k + 1 =>
    let append := fun (x : Word × Nat) =>
      ((x.1.extractLsb' 0 24 ++ key.getD x.2 0 : Word), (x.2 + 1) % key.length)
    let x := append (append (append (append (0, j))))
    x.1 :: keyWordsFrom key k x.2

/-- Whether a register is one of the eight RW registers (10_state.md R21, R22). -/
def rwReg : RegName → Bool
  | .addr | .len | .ivaddr | .ivlen | .ctrLo | .ctrHi | .xl | .xr => true
  | .cmd | .status | .id | .dmemsz => false

/-- `n` steps, until the machine stops. -/
def runSteps (n : Nat) (s : State) : Host.Outcome State Fault Refusal :=
  match n with
  | 0 => .next s
  | k + 1 =>
    match step s with
    | .next t => runSteps k t
    | .fault r => .fault r
    | .refused r => .refused r

/-- The CORE has the next turn, after which `rest` is still to come: nothing else is to come, or its turn stands first, or
a `wait` has had its polls (Logs 4, 12). -/
def coreNext (agenda rest : List Event) : Prop :=
  (agenda = [] ∧ rest = []) ∨ agenda = .coreTurn :: rest ∨ (∃ es, agenda = .wait 0 :: es) ∧ rest = agenda

/-- How many steps an event takes at most: a `wait`, its polls, the CORE's turn and the poll that sees BUSY = 0. -/
def eventSteps : Event → Nat
  | .wait polls => polls + 2
  | .write _ _ _ | .read _ | .coreTurn | .reset => 1

/-- How many steps an agenda takes at most. -/
def agendaSteps (es : List Event) : Nat := (es.map eventSteps).sum

/-- On core `s`, with timings `ts`, the host lines `ls` do what command `i` does with the RW registers at `r`: the run of
their accesses ends in the state the command leaves, after polls of STATUS that saw BUSY = 1 and one, the last, that saw
the outcome. -/
def linesRun (ls : List HostLine) (i : Instr) (r : OperandRegs) (ts : List Timing) (s : State) : Prop :=
  ∃ (u : State) (n k : Nat), exec i (accept (encode i) { s with regs := r }) = .next u ∧
    runSteps n { s with agenda := programEvents ts ls ++ s.agenda } = .next { u with
      observed := statusWord u :: (List.replicate k (statusWord (accept (encode i) s)) ++ s.observed) }

end Sys2Proof.Machine
end

