-- ==== Sys2Proof/Certificates/Slice0/Obligations.lean ====
section
/-! DEFINITION. The statements for the provers, in the order of the spec's files. -/

open Sys2Proof Sys2Proof.Machine

/-! ## Encoding (30_encoding.md) -/

/-- 30_encoding.md R92: the ten command words, written out from the opcode map. -/
def Obligations.OpcodeMapDecodes : Prop :=
  decode 0x00000001#32 = .ok .keyset ∧ decode 0x00000002#32 = .ok .encipher ∧ decode 0x00000003#32 = .ok .decipher ∧
  decode 0x00000004#32 = .ok .blkEnc ∧ decode 0x00000005#32 = .ok .blkDec ∧ decode 0x00000006#32 = .ok .ecbEnc ∧
  decode 0x00000007#32 = .ok .ecbDec ∧ decode 0x00000008#32 = .ok .cbcEnc ∧ decode 0x00000009#32 = .ok .cbcDec ∧
  decode 0x0000000A#32 = .ok .ctrCrypt

/-- 30_encoding.md R91 (and R90 for the fields): on every 32-bit word, the decoder gives a command exactly when the word
is that command's encoding, and no command exactly when the reserved field is set or the opcode is unassigned. So decode
and encode agree in both directions, with no bit dropped. -/
def Obligations.DecodeAndEncodeAgree : Prop :=
  (∀ i : Instr, i.wellFormed = true → decode (encode i) = .ok i) ∧
  (∀ (w : Word) (i : Instr), decode w = .ok i → w = encode i) ∧
  (∀ w : Word, (∃ r, decode w = .error r) ↔
    (w.extractLsb' 8 24 ≠ 0#24 ∨ w.extractLsb' 0 8 = 0x00#8 ∨ 0x0A#8 < w.extractLsb' 0 8))

/-- 30_encoding.md R95, 60_exceptions.md R235: the completion of a word whose reserved field is set or whose opcode is
0x00 or 0x0B to 0xFF ends with Error(ILLEGAL_CMD), whatever else the state holds, and changes nothing else. -/
def Obligations.IllegalWordsEndInIllegalCmd : Prop :=
  ∀ (w : Word) (s : State),
    (w.extractLsb' 8 24 ≠ 0#24 ∨ w.extractLsb' 0 8 = 0x00#8 ∨ 0x0A#8 < w.extractLsb' 0 8) →
    completeWord w s =
      .next { s with status := { s.status with result := .error, errcode := .illegalCmd }, latch := none }

/-- 30_encoding.md R100: the example host-program lines and the bus transactions they produce; on an idle core the `dw`
line places the bytes 01 23 45 67 at DMEM[0x100..0x103]. -/
def Obligations.ExampleLinesEncode : Prop :=
  (∀ n, lineEvents n (.cmd .keyset) = [.write 0#15 0x00000001#32 0b1111#4]) ∧
  (∀ n, lineEvents n (.cmd .ctrCrypt) = [.write 0#15 0x0000000A#32 0b1111#4]) ∧
  (∀ n, lineEvents n (.wr .ivlen 8) = [.write 5#15 0x00000008#32 0b1111#4]) ∧
  (∀ n, lineEvents n (.dw 0x100 0x67452301) = [.write 0x4040#15 0x67452301#32 0b1111#4]) ∧
  (programEvents [] (pseudoLines (.db 0x101 [0xAB])) = [.write 0x4040#15 0x0000AB00#32 0b0010#4]) ∧
  (∀ s : State, s.latch = none → Config.dmemBytesAllowed s.dmemBytes = true →
    let m := (hostWrite 0x4040#15 0x67452301#32 0b1111#4 s).dmem
    m.get? 0x100 = some 0x01 ∧ m.get? 0x101 = some 0x23 ∧ m.get? 0x102 = some 0x45 ∧ m.get? 0x103 = some 0x67)

/-- 30_encoding.md R99: the expansions, line by line as the table has them (`hi` and `lo` are the halves of the 64-bit
pattern of the counter c, which may be negative and defaults to 0), and every line of the expansion of a well-formed
pseudo-instruction is a well-formed base line (which counters are well formed is Log 12). -/
def Obligations.ExpansionsAreWellFormed : Prop :=
  (∀ (p : Pseudo), p.wellFormed = true → ∀ l ∈ pseudoLines p, l.wellFormed = true) ∧
  (∀ (off : Nat) (bytes : List Byte), pseudoLines (.db off bytes) = (List.range bytes.length).map fun k =>
    .dwb (off + k - (off + k) % 4) ((bytes.getD k 0).setWidth 32 <<< (8 * ((off + k) % 4)))
      (1#4 <<< ((off + k) % 4))) ∧
  (∀ addr len iv xl xr : Word,
    pseudoLines (.keyset addr len) = [.wr .addr addr, .wr .len len, .cmd .keyset, .wait] ∧
    pseudoLines (.encipher xl xr) = [.wr .xl xl, .wr .xr xr, .cmd .encipher, .wait] ∧
    pseudoLines (.decipher xl xr) = [.wr .xl xl, .wr .xr xr, .cmd .decipher, .wait] ∧
    pseudoLines (.blkEnc addr) = [.wr .addr addr, .cmd .blkEnc, .wait] ∧
    pseudoLines (.blkDec addr) = [.wr .addr addr, .cmd .blkDec, .wait] ∧
    pseudoLines (.ecbEnc addr len) = [.wr .addr addr, .wr .len len, .cmd .ecbEnc, .wait] ∧
    pseudoLines (.ecbDec addr len) = [.wr .addr addr, .wr .len len, .cmd .ecbDec, .wait] ∧
    pseudoLines (.cbcEnc addr len iv) =
      [.wr .addr addr, .wr .len len, .wr .ivaddr iv, .wr .ivlen 8, .cmd .cbcEnc, .wait] ∧
    pseudoLines (.cbcDec addr len iv) =
      [.wr .addr addr, .wr .len len, .wr .ivaddr iv, .wr .ivlen 8, .cmd .cbcDec, .wait] ∧
    pseudoLines (.ctrCont addr len iv) =
      [.wr .addr addr, .wr .len len, .wr .ivaddr iv, .wr .ivlen 8, .cmd .ctrCrypt, .wait]) ∧
  (∀ (addr len iv lo hi : Word) (c : Int), hi ++ lo = BitVec.ofInt 64 c →
    ∀ p ∈ [Pseudo.ctrCrypt addr len iv c, .ctrEnc addr len iv c, .ctrDec addr len iv c], pseudoLines p =
      [.wr .addr addr, .wr .len len, .wr .ivaddr iv, .wr .ivlen 8, .wr .ctrLo lo, .wr .ctrHi hi, .cmd .ctrCrypt, .wait]) ∧
  (∀ addr len iv : Word, Pseudo.ctrCrypt addr len iv = .ctrCrypt addr len iv 0 ∧
    Pseudo.ctrEnc addr len iv = .ctrEnc addr len iv 0 ∧ Pseudo.ctrDec addr len iv = .ctrDec addr len iv 0)

/-- 30_encoding.md R99: on an idle core, the bus accesses of `db off, B0 B1 ...` put byte `k` at DMEM[off + k] and change
nothing else. -/
def Obligations.DbWritesItsBytes : Prop :=
  ∀ (off : Nat) (bytes : List Byte) (ts : List Timing) (s : State), s.latch = none →
    Config.dmemBytesAllowed s.dmemBytes = true → off + bytes.length ≤ s.dmemBytes →
    ∃ n m, runSteps n { s with agenda := programEvents ts (pseudoLines (.db off bytes)) ++ s.agenda } =
        .next { s with dmem := m } ∧
      (∀ k < bytes.length, m.get? (off + k) = bytes[k]?) ∧ s.dmem.sameOutside m off bytes.length

/-- 30_encoding.md R98, R99: on an idle core, `cmd MNEMONIC` and `wait` run that command, and the expansion of every
pseudo-instruction of a command runs it with the operands given, IVLEN = 8 where an IV is given, and the counter left as
it is by CTR_CONT. The core ends as the command leaves it; the `wait` has read STATUS with BUSY = 1 some number of times
and then, last, the outcome (`linesRun`). The timings `ts` and the agenda are the model's form of what R281 leaves open
(Log 4; the polls of a `wait`, Log 12). -/
def Obligations.CommandLinesRunTheCommand : Prop :=
  ∀ (s : State) (ts : List Timing), s.latch = none →
    (∀ i, linesRun (runLines i) i s.regs ts s) ∧
    (∀ xl xr : Word,
      linesRun (pseudoLines (.encipher xl xr)) .encipher { s.regs with xl := xl, xr := xr } ts s ∧
      linesRun (pseudoLines (.decipher xl xr)) .decipher { s.regs with xl := xl, xr := xr } ts s) ∧
    (∀ addr : Word,
      linesRun (pseudoLines (.blkEnc addr)) .blkEnc { s.regs with addr := addr } ts s ∧
      linesRun (pseudoLines (.blkDec addr)) .blkDec { s.regs with addr := addr } ts s) ∧
    (∀ addr len : Word,
      linesRun (pseudoLines (.keyset addr len)) .keyset { s.regs with addr := addr, len := len } ts s ∧
      linesRun (pseudoLines (.ecbEnc addr len)) .ecbEnc { s.regs with addr := addr, len := len } ts s ∧
      linesRun (pseudoLines (.ecbDec addr len)) .ecbDec { s.regs with addr := addr, len := len } ts s) ∧
    (∀ addr len iv : Word,
      linesRun (pseudoLines (.cbcEnc addr len iv)) .cbcEnc
        { s.regs with addr := addr, len := len, ivaddr := iv, ivlen := 8 } ts s ∧
      linesRun (pseudoLines (.cbcDec addr len iv)) .cbcDec
        { s.regs with addr := addr, len := len, ivaddr := iv, ivlen := 8 } ts s ∧
      linesRun (pseudoLines (.ctrCont addr len iv)) .ctrCrypt
        { s.regs with addr := addr, len := len, ivaddr := iv, ivlen := 8 } ts s) ∧
    (∀ (addr len iv lo hi : Word) (c : Int), hi ++ lo = BitVec.ofInt 64 c →
      ∀ p ∈ [Pseudo.ctrCrypt addr len iv c, .ctrEnc addr len iv c, .ctrDec addr len iv c],
        linesRun (pseudoLines p) .ctrCrypt
          { s.regs with addr := addr, len := len, ivaddr := iv, ivlen := 8, ctrLo := lo, ctrHi := hi } ts s)

/-! ## The step -/

/-- 60_exceptions.md R231, R235: where the CORE has the next turn (its turn stands first, the agenda is empty, or a `wait`
has had its polls), a step completes the latched word, whichever it is: it is exec of the command that the word decodes
to, and for a word that decodes to none it ends with Error(ILLEGAL_CMD) and changes nothing else. The agenda and its turns
are the model's own (Logs 4, 12). -/
def Obligations.StepRunsTheDecodedCommand : Prop :=
  ∀ (s : State) (l : Latch) (rest : List Event), s.latch = some l → coreNext s.agenda rest →
    step s = completeWord l.word { s with agenda := rest } ∧
    (∀ i, decode l.word = .ok i → step s = exec i { s with agenda := rest }) ∧
    (∀ r, decode l.word = .error r → step s = .next { s with
      agenda := rest, status := { s.status with result := .error, errcode := .illegalCmd }, latch := none })

/-- 20_memory.md R60, 60_exceptions.md R255: a step on another event is that event, and an idle core stays as it is.
30_encoding.md R98: a `wait` reads STATUS, ends when the read sees BUSY = 0, and goes on when it sees BUSY = 1.
The agenda is the model's own (Log 4), and so are the polls of a `wait` (Log 12). -/
def Obligations.StepTakesTheNextEvent : Prop :=
  (∀ (s : State) (off : BitVec 15) (v : Word) (be : BitVec 4) (rest : List Event),
    s.agenda = .write off v be :: rest → step s = .next (hostWrite off v be { s with agenda := rest })) ∧
  (∀ (s : State) (off : BitVec 15) (rest : List Event),
    s.agenda = .read off :: rest → step s = .next (hostRead off { s with agenda := rest })) ∧
  (∀ (s : State) (polls : Nat) (rest : List Event), s.latch = none → s.agenda = .wait polls :: rest →
    step s = .next { s with agenda := rest, observed := statusWord s :: s.observed }) ∧
  (∀ (s : State) (polls : Nat) (rest : List Event), s.latch.isSome = true → s.agenda = .wait (polls + 1) :: rest →
    step s = .next { s with agenda := .wait polls :: rest, observed := statusWord s :: s.observed }) ∧
  (∀ (s : State) (rest : List Event),
    s.latch = none → s.agenda = .coreTurn :: rest → step s = .next { s with agenda := rest }) ∧
  (∀ s : State, s.latch = none → s.agenda = [] → step s = .next s)

/-- A table word placed by `withFetchWord` is run by the very next step, as the accepted command (Log 4). -/
def Obligations.FetchedWordRunsNext : Prop :=
  ∀ (s : State) (nbits w : Nat) (i : Instr), decodeTableWord nbits w = some i →
    step (s.withFetchWord nbits w) = exec i (accept (tableWord nbits w) s)

/-- 70_reset_and_hazards.md R281: from every state, after a bounded number of steps the agenda is empty and no command is
in flight, and no step on the way is a fault or a refusal. An accepted command completes unless reset abandons it: with no
reset on the agenda, a run comes to the step that completes the latched word, with registers, DMEM, P and S as they were.
The agenda and the turn taken when it is empty are the model's own (Logs 4, 12). -/
def Obligations.CompletionIsEventual : Prop :=
  (∀ s : State, ∃ t : State, runSteps (agendaSteps s.agenda + 1) s = .next t ∧ t.agenda = [] ∧ t.latch = none) ∧
  (∀ (s : State) (l : Latch), s.latch = some l → .reset ∉ s.agenda →
    ∃ (n : Nat) (u : State) (rest : List Event), n ≤ agendaSteps s.agenda ∧ runSteps n s = .next u ∧
      u.latch = some l ∧ u.regs = s.regs ∧ u.dmem = s.dmem ∧ u.codec = s.codec ∧
      u.status.keyValid = s.status.keyValid ∧ step u = completeWord l.word { u with agenda := rest })

/-! ## State and the host window (10_state.md, 20_memory.md) -/

/-- 10_state.md R22: the eight RW registers. On an idle core a host write stores every bit of its register and changes
no other; a read gives it back; a command writes only XL and XR (ENCIPHER, DECIPHER) and CTR_LO and CTR_HI (CTR_CRYPT),
never ADDR, LEN, IVADDR or IVLEN. -/
def Obligations.OperandRegistersHoldTheirValue : Prop :=
  (∀ (s : State) (v : Word), s.latch = none →
    hostWrite 2#15 v 0b1111#4 s = { s with regs := { s.regs with addr := v } } ∧
    hostWrite 3#15 v 0b1111#4 s = { s with regs := { s.regs with len := v } } ∧
    hostWrite 4#15 v 0b1111#4 s = { s with regs := { s.regs with ivaddr := v } } ∧
    hostWrite 5#15 v 0b1111#4 s = { s with regs := { s.regs with ivlen := v } } ∧
    hostWrite 6#15 v 0b1111#4 s = { s with regs := { s.regs with ctrLo := v } } ∧
    hostWrite 7#15 v 0b1111#4 s = { s with regs := { s.regs with ctrHi := v } } ∧
    hostWrite 8#15 v 0b1111#4 s = { s with regs := { s.regs with xl := v } } ∧
    hostWrite 9#15 v 0b1111#4 s = { s with regs := { s.regs with xr := v } }) ∧
  (∀ s : State, s.latch = none →
    hostRead 2#15 s = { s with observed := s.regs.addr :: s.observed } ∧
    hostRead 3#15 s = { s with observed := s.regs.len :: s.observed } ∧
    hostRead 4#15 s = { s with observed := s.regs.ivaddr :: s.observed } ∧
    hostRead 5#15 s = { s with observed := s.regs.ivlen :: s.observed } ∧
    hostRead 6#15 s = { s with observed := s.regs.ctrLo :: s.observed } ∧
    hostRead 7#15 s = { s with observed := s.regs.ctrHi :: s.observed } ∧
    hostRead 8#15 s = { s with observed := s.regs.xl :: s.observed } ∧
    hostRead 9#15 s = { s with observed := s.regs.xr :: s.observed }) ∧
  (∀ (i : Instr) (s t : State), exec i s = .next t →
    (t.regs.addr = s.regs.addr ∧ t.regs.len = s.regs.len ∧ t.regs.ivaddr = s.regs.ivaddr ∧
      t.regs.ivlen = s.regs.ivlen) ∧
    (i ≠ .encipher → i ≠ .decipher → t.regs.xl = s.regs.xl ∧ t.regs.xr = s.regs.xr) ∧
    (i ≠ .ctrCrypt → t.regs.ctrLo = s.regs.ctrLo ∧ t.regs.ctrHi = s.regs.ctrHi))

/-- 10_state.md R24: the fields of the word a read of STATUS returns, at any time. -/
def Obligations.StatusWordLayout : Prop :=
  ∀ s : State, hostRead 1#15 s = { s with observed := statusWord s :: s.observed } ∧
    (statusWord s).extractLsb' 0 1 = BitVec.ofBool s.latch.isSome ∧
    (statusWord s).extractLsb' 1 1 = BitVec.ofBool s.status.keyValid ∧
    (statusWord s).extractLsb' 2 2 = 0#2 ∧
    (statusWord s).extractLsb' 4 2 = (match s.status.result with
      | .noOutcome => 0#2 | .ok => 1#2 | .declined => 2#2 | .error => 3#2) ∧
    (statusWord s).extractLsb' 6 2 = 0#2 ∧
    (statusWord s).extractLsb' 8 4 = (match s.status.errcode with
      | .noError => 0#4 | .invalidKey => 1#4 | .noKey => 2#4 | .range => 3#4 | .illegalCmd => 4#4) ∧
    (statusWord s).extractLsb' 12 4 = 0#4 ∧
    (statusWord s).extractLsb' 16 1 = BitVec.ofBool s.status.ovr ∧
    (statusWord s).extractLsb' 17 15 = 0#15

/-- 10_state.md R24, the write rules: a host write of STATUS changes only OVR, only when data bit 16 is 1, and is accepted
while BUSY = 1 too. -/
def Obligations.StatusWriteClearsOnlyOvr : Prop :=
  ∀ (s : State) (v : Word),
    (v.getLsbD 16 = true → hostWrite 1#15 v 0b1111#4 s = { s with status := { s.status with ovr := false } }) ∧
    (v.getLsbD 16 = false → hostWrite 1#15 v 0b1111#4 s = s)

/-- 10_state.md R31: ID and DMEMSZ read their constants at any time, and writes to both are ignored. DMEM_BYTES is the
field `dmemBytes` (Log 1), which no step changes. -/
def Obligations.IdAndDmemSizeAreConstant : Prop :=
  (∀ (s : State) (v : Word) (be : BitVec 4),
    hostRead 10#15 s = { s with observed := 0x424C4631#32 :: s.observed } ∧
    hostRead 11#15 s = { s with observed := BitVec.ofNat 32 s.dmemBytes :: s.observed } ∧
    hostWrite 10#15 v be s = s ∧ hostWrite 11#15 v be s = s) ∧
  (∀ s t : State, step s = .next t → t.dmemBytes = s.dmemBytes)

/-- 20_memory.md R65, 30_encoding.md R97: reserved offsets of the register block and of the DMEM window read 0 and ignore
writes, at any time and with no OVR; the reserved bits of STATUS read 0; ID and DMEMSZ ignore writes; CMD reads 0. -/
def Obligations.ReservedSpaceIsInert : Prop :=
  (∀ (s : State) (off : BitVec 15) (v : Word) (be : BitVec 4),
    (0x30 ≤ 4 * off.toNat ∧ 4 * off.toNat < 0x10000) ∨ 0x10000 + s.dmemBytes ≤ 4 * off.toNat →
    hostRead off s = { s with observed := 0#32 :: s.observed } ∧ hostWrite off v be s = s) ∧
  (∀ s : State, hostRead 1#15 s = { s with observed := statusWord s :: s.observed } ∧
    statusWord s &&& 0xFFFEF0CC#32 = 0#32) ∧
  (∀ (s : State) (v : Word) (be : BitVec 4), hostWrite 10#15 v be s = s ∧ hostWrite 11#15 v be s = s) ∧
  (∀ s : State, hostRead 0#15 s = { s with observed := 0#32 :: s.observed })

/-- 20_memory.md R68: a register-block write with byte enables other than 0b1111 is ignored entirely. -/
def Obligations.PartialRegisterWritesAreIgnored : Prop :=
  ∀ (s : State) (off : BitVec 15) (v : Word) (be : BitVec 4),
    4 * off.toNat < 0x10000 → be ≠ 0b1111#4 → hostWrite off v be s = s

/-- 20_memory.md R64: on an idle core a host write of the DMEM word at 4k sets exactly the bytes of its enabled lanes,
little-endian, and a read returns all four bytes (a free value for each byte that has not been written, Log 3). -/
def Obligations.DmemWindowLanes : Prop :=
  ∀ (s : State) (k : Nat) (off : BitVec 15), s.latch = none → 4 * off.toNat = 0x10000 + 4 * k → 4 * k < s.dmemBytes →
    (∀ (v : Word) (be : BitVec 4), ∃ m, hostWrite off v be s = { s with dmem := m } ∧
      (∀ j < 4, m.get? (4 * k + j) =
        if be.getLsbD j then some (v.extractLsb' (8 * j) 8) else s.dmem.get? (4 * k + j)) ∧
      s.dmem.sameOutside m (4 * k) 4) ∧
    (∃ w : Word, hostRead off s = { s with observed := w :: s.observed, draws := s.draws + 4 } ∧
      ∀ j < 4, w.extractLsb' (8 * j) 8 = s.dmem.byteAt (4 * k + j) (s.draws + j))

/-- 20_memory.md R67: host accesses while BUSY = 1. Writes to CMD, the RW registers and DMEM are dropped and set OVR;
STATUS writes take effect; RO and reserved offsets ignore writes; reads of DMEM, XL, XR, CTR_LO and CTR_HI return a free
value; reads of other registers return the current value (CMD reads 0), and STATUS shows BUSY = 1. That a DMEM write with
no byte lane enabled counts as dropped too is the model's choice (Log 9). -/
def Obligations.BusyAccesses : Prop :=
  ∀ (s : State) (off : BitVec 15) (v : Word) (be : BitVec 4), s.latch.isSome = true →
    (4 * off.toNat = 0x00 ∨ (0x08 ≤ 4 * off.toNat ∧ 4 * off.toNat ≤ 0x24) → be = 0b1111#4 →
      hostWrite off v be s = { s with status := { s.status with ovr := true } }) ∧
    (0x10000 ≤ 4 * off.toNat ∧ 4 * off.toNat < 0x10000 + s.dmemBytes →
      hostWrite off v be s = { s with status := { s.status with ovr := true } }) ∧
    (4 * off.toNat = 0x04 → be = 0b1111#4 →
      hostWrite off v be s =
        if v.getLsbD 16 then { s with status := { s.status with ovr := false } } else s) ∧
    ((0x28 ≤ 4 * off.toNat ∧ 4 * off.toNat < 0x10000) ∨ 0x10000 + s.dmemBytes ≤ 4 * off.toNat →
      hostWrite off v be s = s) ∧
    ((0x18 ≤ 4 * off.toNat ∧ 4 * off.toNat ≤ 0x24) ∨
        (0x10000 ≤ 4 * off.toNat ∧ 4 * off.toNat < 0x10000 + s.dmemBytes) →
      hostRead off s =
        { s with observed := Config.busyReadWord s.draws :: s.observed, draws := s.draws + 1 }) ∧
    hostRead 0#15 s = { s with observed := 0#32 :: s.observed } ∧
    hostRead 1#15 s = { s with observed := statusWord s :: s.observed } ∧
    hostRead 2#15 s = { s with observed := s.regs.addr :: s.observed } ∧
    hostRead 3#15 s = { s with observed := s.regs.len :: s.observed } ∧
    hostRead 4#15 s = { s with observed := s.regs.ivaddr :: s.observed } ∧
    hostRead 5#15 s = { s with observed := s.regs.ivlen :: s.observed } ∧
    hostRead 10#15 s = { s with observed := 0x424C4631#32 :: s.observed } ∧
    hostRead 11#15 s = { s with observed := BitVec.ofNat 32 s.dmemBytes :: s.observed } ∧
    (statusWord s).getLsbD 0 = true

/-- 20_memory.md R74: a read has no side effect on the core: it returns a word and at most uses free values. -/
def Obligations.ReadsHaveNoSideEffects : Prop :=
  ∀ (s : State) (off : BitVec 15), ∃ w n,
    hostRead off s = { s with observed := w :: s.observed, draws := s.draws + n }

/-- 20_memory.md R70: on an idle core, the words B[3]||B[2]||B[1]||B[0] and B[7]||B[6]||B[5]||B[4] place the block
B[0..7], which a block operation takes as the halves B[0]||..||B[3] and B[4]||..||B[7]. In the rule's example the word
0x67452301 becomes the bytes 01 23 45 67, is taken as 0x01234567, and is read back as 0x67452301. -/
def Obligations.HostAndCipherByteOrders : Prop :=
  (∀ (s : State) (b : Block) (d : Nat), s.latch = none → Config.dmemBytesAllowed s.dmemBytes = true →
    let t := hostWrite 0x4001#15 (b.b7 ++ b.b6 ++ b.b5 ++ b.b4) 0b1111#4
      (hostWrite 0x4000#15 (b.b3 ++ b.b2 ++ b.b1 ++ b.b0) 0b1111#4 s)
    t.dmem.holdsBlock 0 b ∧
      unpack (t.dmem.readBlock 0 d) = (b.b0 ++ b.b1 ++ b.b2 ++ b.b3, b.b4 ++ b.b5 ++ b.b6 ++ b.b7)) ∧
  (∀ (s : State) (d : Nat), s.latch = none → Config.dmemBytesAllowed s.dmemBytes = true →
    let t := hostWrite 0x4000#15 0x67452301#32 0b1111#4 s
    (t.dmem.get? 0 = some 0x01 ∧ t.dmem.get? 1 = some 0x23 ∧ t.dmem.get? 2 = some 0x45 ∧ t.dmem.get? 3 = some 0x67) ∧
    (unpack (t.dmem.readBlock 0 d)).1 = 0x01234567#32 ∧
    (hostRead 0x4000#15 t).observed = 0x67452301#32 :: s.observed)

/-- The canonical form of data memory: two memories in it that hold the same bytes are the same list. -/
def Obligations.EqualMemoriesAreEqualData : Prop :=
  ∀ m m' : Memory, m.wf → m'.wf → (∀ a, m.get? a = m'.get? a) → m = m'

/-! ## The codec (40_codec.md) -/

/-- 10_state.md R32 and the check values of R33: P[i] = INIT[i], S[j][n] = INIT[18 + 256 j + n]. -/
def Obligations.InitTableLayout : Prop :=
  (∀ i : Fin 18, initCodec.P[i] = initWord i.val) ∧
  (∀ (j : Fin 4) (n : Fin 256), initCodec.S[j][n] = initWord (18 + 256 * j.val + n.val)) ∧
  initTable.length = 1042 ∧ initTable.foldl (· ^^^ ·) 0 = 0x6FFA520A#32 ∧ initTable.foldl (· + ·) 0 = 0x6BBF03AC#32 ∧
  initWord 1041 = 0x3AC372E6#32

/-- 40_codec.md R121: the round function, and its example with the INIT tables. -/
def Obligations.RoundFunction : Prop :=
  (∀ (c : Codec) (x : Word), roundF c x =
    ((c.S[0][(x.extractLsb' 24 8).toNat] + c.S[1][(x.extractLsb' 16 8).toNat])
      ^^^ c.S[2][(x.extractLsb' 8 8).toNat]) + c.S[3][(x.extractLsb' 0 8).toNat]) ∧
  roundF initCodec 0x00000000#32 = 0x2FCFF51E#32

/-- 40_codec.md R122: the round step, and its example with the INIT tables. -/
def Obligations.RoundStep : Prop :=
  (∀ (c : Codec) (a b : Word) (k : Nat) (h : k < 17), 1 ≤ k → roundStep c a b k = roundF c b ^^^ c.P[k] ^^^ a) ∧
  roundStep initCodec 0x11111111#32 0x00000000#32 1 = 0xBB7DECDC#32

/-- 40_codec.md R123: Encipher is 16 rounds with the subkeys P[1] to P[16] in order, P[0] before and P[17] after, and
the halves swapped: `x k` is the half that round k reads, the chain of the 16 rounds. -/
def Obligations.EncipherIsSixteenRounds : Prop :=
  ∀ (c : Codec) (l r : Word) (x : Nat → Word), x 0 = r → x 1 = l ^^^ c.P[0] →
    (∀ k, 1 ≤ k → k ≤ 16 → x (k + 1) = roundStep c (x (k - 1)) (x k) k) →
    encipher c (l, r) = (x 16 ^^^ c.P[17], x 17)

/-- 40_codec.md R124: Decipher is the mirror image: the subkeys P[16] down to P[1], P[17] first and P[0] last. -/
def Obligations.DecipherIsTheMirrorImage : Prop :=
  ∀ (c : Codec) (l r : Word) (x : Nat → Word), x 0 = r → x 1 = l ^^^ c.P[17] →
    (∀ k, 1 ≤ k → k ≤ 16 → x (k + 1) = roundStep c (x (k - 1)) (x k) (17 - k)) →
    decipher c (l, r) = (x 16 ^^^ c.P[0], x 17)

/-- 40_codec.md R126: the core algebraic invariant, on word pairs and on blocks, in both orders, for every P and S. -/
def Obligations.DecipherInvertsEncipher : Prop :=
  ∀ (c : Codec) (x : Word × Word) (b : Block),
    decipher c (encipher c x) = x ∧ encipher c (decipher c x) = x ∧
    blockDec c (blockEnc c b) = b ∧ blockEnc c (blockDec c b) = b

/-- 40_codec.md R127: the pseudocode's running index gives KW[i] = be32(key[4i mod L], ..), and the rule's example. -/
def Obligations.KeyWordsWrapThroughTheKey : Prop :=
  (∀ (key : List Byte) (i : Nat), 8 ≤ key.length → key.length ≤ 448 → i < 18 →
    (keyWordsFrom key 18 0)[i]? = some (keyWord key i) ∧
    keyWord key i = key.getD ((4 * i) % key.length) 0 ++ key.getD ((4 * i + 1) % key.length) 0 ++
      key.getD ((4 * i + 2) % key.length) 0 ++ key.getD ((4 * i + 3) % key.length) 0) ∧
  (List.range 4).map (keyWord [1, 2, 3, 4, 5, 6, 7, 8, 9]) = [0x01020304#32, 0x05060708#32, 0x09010203#32, 0x04050607#32]

/-- 40_codec.md R128: the 521 encipherments run in order, each with the tables as they stand. There are tables `c m` and
pairs `x m` from the INIT tables mixed with the key words and the zero pair; encipherment m gives pair m + 1, which is
stored in P[2m], P[2m+1] (m < 9) or in the two entries of S[(m - 9) / 128] at 2 ((m - 9) mod 128), and in no other entry;
the tables after the last are the key schedule. With the rule's example, the all-zero key of 8 bytes. -/
def Obligations.KeyScheduleRunsInOrder : Prop :=
  (∀ key : List Byte, ∃ (c : Nat → Codec) (x : Nat → Word × Word),
    (∀ i : Fin 18, (c 0).P[i] = initWord i.val ^^^ keyWord key i.val) ∧
    (∀ (j : Fin 4) (n : Fin 256), (c 0).S[j][n] = initWord (18 + 256 * j.val + n.val)) ∧
    x 0 = (0, 0) ∧
    (∀ m < 521, x (m + 1) = encipher (c m) (x m) ∧
      (∀ i : Fin 18, (c (m + 1)).P[i] =
        if m < 9 ∧ i.val = 2 * m then (x (m + 1)).1
        else if m < 9 ∧ i.val = 2 * m + 1 then (x (m + 1)).2 else (c m).P[i]) ∧
      (∀ (j : Fin 4) (n : Fin 256), (c (m + 1)).S[j][n] =
        if 9 ≤ m ∧ j.val = (m - 9) / 128 ∧ n.val = 2 * ((m - 9) % 128) then (x (m + 1)).1
        else if 9 ≤ m ∧ j.val = (m - 9) / 128 ∧ n.val = 2 * ((m - 9) % 128) + 1 then (x (m + 1)).2
        else (c m).S[j][n])) ∧
    keySchedule key = c 521) ∧
  (∀ i < 18, keyWord (List.replicate 8 0) i = 0#32) ∧
  encipher initCodec (0, 0) = (0x706D9FCC#32, 0x1792D23A#32) ∧
  (keySchedule (List.replicate 8 0)).P[0] = 0x706D9FCC#32 ∧ (keySchedule (List.replicate 8 0)).P[1] = 0x1792D23A#32

/-- 40_codec.md R132: the cipher state depends only on the 72 bytes key[m mod L]; a longer key counts as its first 72
bytes; a key and its repetitions give the same state. -/
def Obligations.KeyPrefixProperty : Prop :=
  (∀ k k' : List Byte, (∀ m < 72, k.getD (m % k.length) 0 = k'.getD (m % k'.length) 0) →
    keySchedule k = keySchedule k') ∧
  (∀ k : List Byte, 72 ≤ k.length → keySchedule k = keySchedule (k.take 72)) ∧
  (∀ (k : List Byte) (n : Nat), 0 < k.length → keySchedule (List.replicate (n + 1) k).flatten = keySchedule k)

/-- 40_codec.md R130, the OK case: a key of 8 to 448 bytes inside DMEM is read from ADDR and its key schedule replaces P
and S, with or without a key before; KEY_VALID is set and nothing else changes. -/
def Obligations.KeysetLoadsTheKey : Prop :=
  ∀ s : State, 8 ≤ s.regs.len.toNat → s.regs.len.toNat ≤ 448 →
    s.regs.addr.toNat + s.regs.len.toNat ≤ s.dmemBytes →
    ∃ key : List Byte, key.length = s.regs.len.toNat ∧
      (∀ k < s.regs.len.toNat, key[k]? = some (s.dmem.byteAt (s.regs.addr.toNat + k) (s.draws + k))) ∧
      exec .keyset s = .next { s with
        codec := keySchedule key,
        status := { s.status with keyValid := true, result := .ok, errcode := .noError },
        latch := none, draws := s.draws + s.regs.len.toNat }

/-- 40_codec.md R131 (with the checks of R130): a KEYSET whose key length is outside 8 to 448, or whose key is not inside
DMEM, changes only RESULT and ERRCODE; the length is checked first. -/
def Obligations.FailedKeysetChangesNothing : Prop :=
  ∀ s : State,
    (s.regs.len.toNat < 8 ∨ 448 < s.regs.len.toNat → exec .keyset s =
      .next { s with status := { s.status with result := .error, errcode := .invalidKey }, latch := none }) ∧
    (8 ≤ s.regs.len.toNat → s.regs.len.toNat ≤ 448 → s.dmemBytes < s.regs.addr.toNat + s.regs.len.toNat →
      exec .keyset s =
        .next { s with status := { s.status with result := .error, errcode := .range }, latch := none })

/-- 00_scope.md R7: the key-length bounds are inclusive (a key of a legal length must also lie inside DMEM, R130). -/
def Obligations.KeyLengthBoundsAreInclusive : Prop :=
  (∀ s : State, s.regs.len = 7 ∨ s.regs.len = 449 → ∃ t, exec .keyset s = .next t ∧
    t.status.result = .error ∧ t.status.errcode = .invalidKey) ∧
  (∀ s : State, s.regs.len = 8 ∨ s.regs.len = 448 → s.regs.addr.toNat + s.regs.len.toNat ≤ s.dmemBytes →
    ∃ t, exec .keyset s = .next t ∧ t.status.result = .ok ∧ t.status.keyValid = true)

/-- 40_codec.md R134: ENCIPHER with a key, on every pair in XL, XR; nothing else changes. -/
def Obligations.EncipherCommand : Prop :=
  ∀ s : State, s.status.keyValid = true → exec .encipher s = .next { s with
    regs := { s.regs with
      xl := (encipher s.codec (s.regs.xl, s.regs.xr)).1, xr := (encipher s.codec (s.regs.xl, s.regs.xr)).2 },
    status := { s.status with result := .ok, errcode := .noError }, latch := none }

/-- 40_codec.md R135: DECIPHER with a key, on every pair in XL, XR; nothing else changes. -/
def Obligations.DecipherCommand : Prop :=
  ∀ s : State, s.status.keyValid = true → exec .decipher s = .next { s with
    regs := { s.regs with
      xl := (decipher s.codec (s.regs.xl, s.regs.xr)).1, xr := (decipher s.codec (s.regs.xl, s.regs.xr)).2 },
    status := { s.status with result := .ok, errcode := .noError }, latch := none }

/-- 40_codec.md R134, R126: ENCIPHER followed by DECIPHER restores XL and XR, and so does the other order. -/
def Obligations.EncipherThenDecipherRestores : Prop :=
  ∀ s : State, s.status.keyValid = true →
    (∃ t u, exec .encipher s = .next t ∧ exec .decipher (accept (encode .decipher) t) = .next u ∧ u.regs = s.regs) ∧
    (∃ t u, exec .decipher s = .next t ∧ exec .encipher (accept (encode .encipher) t) = .next u ∧ u.regs = s.regs)

/-- 40_codec.md R136, R137, the OK case: the 8 bytes at ADDR, at any alignment and with any LEN, are replaced by BlockEnc
or BlockDec of what was read; every other byte and everything else is unchanged. -/
def Obligations.BlockCommandsTransformTheBlock : Prop :=
  ∀ s : State, s.status.keyValid = true → s.regs.addr.toNat + 8 ≤ s.dmemBytes →
    (∃ m, exec .blkEnc s = .next { s with
        dmem := m, status := { s.status with result := .ok, errcode := .noError }, latch := none,
        draws := s.draws + 8 } ∧
      m.holdsBlock s.regs.addr.toNat (blockEnc s.codec (s.dmem.readBlock s.regs.addr.toNat s.draws)) ∧
      s.dmem.sameOutside m s.regs.addr.toNat 8) ∧
    (∃ m, exec .blkDec s = .next { s with
        dmem := m, status := { s.status with result := .ok, errcode := .noError }, latch := none,
        draws := s.draws + 8 } ∧
      m.holdsBlock s.regs.addr.toNat (blockDec s.codec (s.dmem.readBlock s.regs.addr.toNat s.draws)) ∧
      s.dmem.sameOutside m s.regs.addr.toNat 8)

/-! ## The mode controllers (41_ecb.md, 42_cbc.md, 43_ctr.md) -/

/-- 41_ecb.md R162, R163, the OK case: each 8-byte block of [ADDR, ADDR+LEN) is transformed on its own; every other byte
and everything else is unchanged. -/
def Obligations.EcbTransformsEveryBlock : Prop :=
  ∀ s : State, s.status.keyValid = true → s.regs.len.toNat ≠ 0 → s.regs.len.toNat % 8 = 0 →
    s.regs.addr.toNat + s.regs.len.toNat ≤ s.dmemBytes →
    (∃ m, exec .ecbEnc s = .next { s with
        dmem := m, status := { s.status with result := .ok, errcode := .noError }, latch := none,
        draws := s.draws + s.regs.len.toNat } ∧
      (∀ i < s.regs.len.toNat / 8, m.holdsBlock (s.regs.addr.toNat + 8 * i)
        (blockEnc s.codec (s.dmem.readBlock (s.regs.addr.toNat + 8 * i) (s.draws + 8 * i)))) ∧
      s.dmem.sameOutside m s.regs.addr.toNat s.regs.len.toNat) ∧
    (∃ m, exec .ecbDec s = .next { s with
        dmem := m, status := { s.status with result := .ok, errcode := .noError }, latch := none,
        draws := s.draws + s.regs.len.toNat } ∧
      (∀ i < s.regs.len.toNat / 8, m.holdsBlock (s.regs.addr.toNat + 8 * i)
        (blockDec s.codec (s.dmem.readBlock (s.regs.addr.toNat + 8 * i) (s.draws + 8 * i)))) ∧
      s.dmem.sameOutside m s.regs.addr.toNat s.regs.len.toNat)

/-- 41_ecb.md R161: with a key, LEN = 0 or LEN not a multiple of 8 declines and changes nothing else, whatever ADDR; and
the IV registers play no part in what ECB does. -/
def Obligations.EcbInputContract : Prop :=
  ∀ s : State, s.status.keyValid = true →
    (s.regs.len.toNat = 0 ∨ s.regs.len.toNat % 8 ≠ 0 → ∀ i, i = Instr.ecbEnc ∨ i = Instr.ecbDec → exec i s =
      .next { s with status := { s.status with result := .declined, errcode := .noError }, latch := none }) ∧
    (∀ i, i = Instr.ecbEnc ∨ i = Instr.ecbDec → ∀ (x y : Word), ∃ t, exec i s = .next t ∧
      exec i { s with regs := { s.regs with ivaddr := x, ivlen := y } } =
        .next { t with regs := { t.regs with ivaddr := x, ivlen := y } })

/-- 41_ecb.md R164: ECB_ENC then ECB_DEC over the same buffer, and the two in the other order, leave every byte of the
buffer as the first command read it (a byte that had not been written takes the value drawn then, Log 3), and every other
byte of DMEM as it was. -/
def Obligations.EcbRoundTrip : Prop :=
  ∀ s : State, s.status.keyValid = true → s.regs.len.toNat ≠ 0 → s.regs.len.toNat % 8 = 0 →
    s.regs.addr.toNat + s.regs.len.toNat ≤ s.dmemBytes →
    (∃ t u, exec .ecbEnc s = .next t ∧ exec .ecbDec (accept (encode .ecbDec) t) = .next u ∧
      (∀ j < s.regs.len.toNat, u.dmem.get? (s.regs.addr.toNat + j) =
        some (s.dmem.byteAt (s.regs.addr.toNat + j) (s.draws + j))) ∧
      s.dmem.sameOutside u.dmem s.regs.addr.toNat s.regs.len.toNat) ∧
    (∃ t u, exec .ecbDec s = .next t ∧ exec .ecbEnc (accept (encode .ecbEnc) t) = .next u ∧
      (∀ j < s.regs.len.toNat, u.dmem.get? (s.regs.addr.toNat + j) =
        some (s.dmem.byteAt (s.regs.addr.toNat + j) (s.draws + j))) ∧
      s.dmem.sameOutside u.dmem s.regs.addr.toNat s.regs.len.toNat)

/-- 42_cbc.md R182, the OK case: the buffer becomes the ciphertext blocks C i = BlockEnc(P i XOR C (i - 1)), with the IV
as it was at the start before C 0; every other byte and everything else is unchanged. -/
def Obligations.CbcEncChains : Prop :=
  ∀ s : State, s.status.keyValid = true → s.regs.len.toNat ≠ 0 → s.regs.len.toNat % 8 = 0 → s.regs.ivlen.toNat = 8 →
    s.regs.addr.toNat + s.regs.len.toNat ≤ s.dmemBytes → s.regs.ivaddr.toNat + 8 ≤ s.dmemBytes →
    ∃ (m : Memory) (C : Nat → Block), exec .cbcEnc s = .next { s with
        dmem := m, status := { s.status with result := .ok, errcode := .noError }, latch := none,
        draws := s.draws + (8 + s.regs.len.toNat) } ∧
      (∀ i < s.regs.len.toNat / 8, m.holdsBlock (s.regs.addr.toNat + 8 * i) (C i) ∧
        C i = blockEnc s.codec
          ((s.dmem.readBlock (s.regs.addr.toNat + 8 * i) (s.draws + 8 + 8 * i)).xor
            (if i = 0 then s.dmem.readBlock s.regs.ivaddr.toNat s.draws else C (i - 1)))) ∧
      s.dmem.sameOutside m s.regs.addr.toNat s.regs.len.toNat

/-- 42_cbc.md R183, the OK case: block i becomes BlockDec(C i) XOR C (i - 1), where C is the ciphertext as it was before
the command, with the IV before C 0; every other byte and everything else is unchanged. -/
def Obligations.CbcDecChains : Prop :=
  ∀ s : State, s.status.keyValid = true → s.regs.len.toNat ≠ 0 → s.regs.len.toNat % 8 = 0 → s.regs.ivlen.toNat = 8 →
    s.regs.addr.toNat + s.regs.len.toNat ≤ s.dmemBytes → s.regs.ivaddr.toNat + 8 ≤ s.dmemBytes →
    ∃ m : Memory, exec .cbcDec s = .next { s with
        dmem := m, status := { s.status with result := .ok, errcode := .noError }, latch := none,
        draws := s.draws + (8 + s.regs.len.toNat) } ∧
      (∀ i < s.regs.len.toNat / 8, m.holdsBlock (s.regs.addr.toNat + 8 * i)
        ((blockDec s.codec (s.dmem.readBlock (s.regs.addr.toNat + 8 * i) (s.draws + 8 + 8 * i))).xor
          (if i = 0 then s.dmem.readBlock s.regs.ivaddr.toNat s.draws
            else s.dmem.readBlock (s.regs.addr.toNat + 8 * (i - 1)) (s.draws + 8 + 8 * (i - 1))))) ∧
      s.dmem.sameOutside m s.regs.addr.toNat s.regs.len.toNat

/-- 42_cbc.md R184: CBC_ENC followed by CBC_DEC with the same ADDR, LEN and IV bytes (what the two commands read there is
the same, also where the IV region meets the buffer) leaves every byte of the buffer as the first command read it, and
every other byte of DMEM as it was. -/
def Obligations.CbcRoundTrip : Prop :=
  ∀ s : State, s.status.keyValid = true → s.regs.len.toNat ≠ 0 → s.regs.len.toNat % 8 = 0 → s.regs.ivlen.toNat = 8 →
    s.regs.addr.toNat + s.regs.len.toNat ≤ s.dmemBytes → s.regs.ivaddr.toNat + 8 ≤ s.dmemBytes →
    ∃ t, exec .cbcEnc s = .next t ∧
      (t.dmem.readBlock s.regs.ivaddr.toNat t.draws = s.dmem.readBlock s.regs.ivaddr.toNat s.draws →
        ∃ u, exec .cbcDec (accept (encode .cbcDec) t) = .next u ∧
          (∀ j < s.regs.len.toNat, u.dmem.get? (s.regs.addr.toNat + j) =
            some (s.dmem.byteAt (s.regs.addr.toNat + j) (s.draws + 8 + j))) ∧
          s.dmem.sameOutside u.dmem s.regs.addr.toNat s.regs.len.toNat)

/-- 43_ctr.md R204 with R201 to R206, the OK case: data byte j is XORed with byte j mod 8 of
BlockEnc(le64bytes(c0 + j / 8) XOR iv), the leading bytes for a last partial block; CTR_HI:CTR_LO receives
c0 + ceil(LEN / 8) mod 2^64; every other byte and everything else is unchanged. The numbering of free values, with the
clause on draws, is the model's own (Logs 3, 11). -/
def Obligations.CtrXorsTheKeystream : Prop :=
  ∀ s : State, s.status.keyValid = true → s.regs.len.toNat ≠ 0 → s.regs.ivlen.toNat = 8 →
    s.regs.addr.toNat + s.regs.len.toNat ≤ s.dmemBytes → s.regs.ivaddr.toNat + 8 ≤ s.dmemBytes →
    ∃ (m : Memory) (c1 : Counter), exec .ctrCrypt s = .next { s with
        dmem := m, regs := { s.regs with ctrHi := c1.extractLsb' 32 32, ctrLo := c1.extractLsb' 0 32 },
        status := { s.status with result := .ok, errcode := .noError }, latch := none,
        draws := s.draws + (8 + s.regs.len.toNat) } ∧
      c1.toNat = ((s.regs.ctrHi ++ s.regs.ctrLo : Counter).toNat + (s.regs.len.toNat + 7) / 8) % 2 ^ 64 ∧
      (∀ j < s.regs.len.toNat, m.get? (s.regs.addr.toNat + j) =
        some (s.dmem.byteAt (s.regs.addr.toNat + j) (s.draws + 8 + j) ^^^
          (blockEnc s.codec
            ((le64bytes ((s.regs.ctrHi ++ s.regs.ctrLo) + BitVec.ofNat 64 (j / 8))).xor
              (s.dmem.readBlock s.regs.ivaddr.toNat s.draws))).byte (j % 8))) ∧
      s.dmem.sameOutside m s.regs.addr.toNat s.regs.len.toNat

/-- 43_ctr.md R206: on OK, and only then, CTR_CRYPT moves the counter, to c0 + ceil(LEN / 8) mod 2^64. -/
def Obligations.CounterWriteBack : Prop :=
  ∀ s t : State, exec .ctrCrypt s = .next t →
    (t.status.result = .ok → (t.regs.ctrHi ++ t.regs.ctrLo : Counter) =
      (s.regs.ctrHi ++ s.regs.ctrLo) + BitVec.ofNat 64 ((s.regs.len.toNat + 7) / 8)) ∧
    (t.status.result ≠ .ok → t.regs = s.regs)

/-- 43_ctr.md R209: two CTR_CRYPT over the same buffer with the same IV bytes (what the two commands read there is the
same) and the same starting counter, which the HOST rewrites between them, leave every byte of the buffer as the first
command read it, and every other byte of DMEM as it was, for any LEN ≥ 1. -/
def Obligations.CtrRoundTrip : Prop :=
  ∀ s : State, s.status.keyValid = true → s.regs.len.toNat ≠ 0 → s.regs.ivlen.toNat = 8 →
    s.regs.addr.toNat + s.regs.len.toNat ≤ s.dmemBytes → s.regs.ivaddr.toNat + 8 ≤ s.dmemBytes →
    ∃ t, exec .ctrCrypt s = .next t ∧
      (t.dmem.readBlock s.regs.ivaddr.toNat t.draws = s.dmem.readBlock s.regs.ivaddr.toNat s.draws →
        ∃ u, exec .ctrCrypt (accept (encode .ctrCrypt)
            { t with regs := { t.regs with ctrHi := s.regs.ctrHi, ctrLo := s.regs.ctrLo } }) = .next u ∧
          (∀ j < s.regs.len.toNat, u.dmem.get? (s.regs.addr.toNat + j) =
            some (s.dmem.byteAt (s.regs.addr.toNat + j) (s.draws + 8 + j))) ∧
          s.dmem.sameOutside u.dmem s.regs.addr.toNat s.regs.len.toNat)

/-- 43_ctr.md R207: CTR_CRYPT over a buffer D1 ++ D2 cut at a block boundary is CTR_CRYPT over D1 and then over D2 with
the counter the first wrote back, wherever the IV region lies but on D1, whose bytes the first command writes. The regions
have been written, since an unwritten byte has a free value at each read (Log 3). -/
def Obligations.CtrContinuation : Prop :=
  ∀ (s : State) (l1 l2 a2 : Word), s.status.keyValid = true → s.regs.ivlen.toNat = 8 →
    l1.toNat ≠ 0 → l1.toNat % 8 = 0 → l2.toNat ≠ 0 → s.regs.len.toNat = l1.toNat + l2.toNat →
    a2.toNat = s.regs.addr.toNat + l1.toNat →
    s.regs.addr.toNat + s.regs.len.toNat ≤ s.dmemBytes → s.regs.ivaddr.toNat + 8 ≤ s.dmemBytes →
    apart s.regs.ivaddr.toNat 8 s.regs.addr.toNat l1.toNat → s.dmem.wf →
    s.dmem.written s.regs.addr.toNat s.regs.len.toNat → s.dmem.written s.regs.ivaddr.toNat 8 →
    ∃ t t1 t2, exec .ctrCrypt s = .next t ∧
      exec .ctrCrypt { s with regs := { s.regs with len := l1 } } = .next t1 ∧
      exec .ctrCrypt (accept (encode .ctrCrypt) { t1 with regs := { t1.regs with addr := a2, len := l2 } }) = .next t2 ∧
      t2.dmem = t.dmem ∧ t2.regs.ctrHi = t.regs.ctrHi ∧ t2.regs.ctrLo = t.regs.ctrLo

/-! ## Outcomes (60_exceptions.md) -/

/-- 60_exceptions.md R230: acceptance. While BUSY = 0 every CMD word written with all byte enables is accepted, legal or
not; while BUSY = 1 none is: the write is dropped and sets OVR. The latch keeps the operand registers (10_state.md R34). -/
def Obligations.CmdWriteIsAcceptedWhenIdle : Prop :=
  ∀ (s : State) (w : Word),
    (s.latch = none → hostWrite 0#15 w 0b1111#4 s = { s with
      latch := some { word := w, operands := s.regs },
      status := { s.status with result := .noOutcome, errcode := .noError } }) ∧
    (s.latch.isSome = true → hostWrite 0#15 w 0b1111#4 s = { s with status := { s.status with ovr := true } })

/-- 60_exceptions.md R240, with the conditions of R233 and R235 to R238: every completion ends, BUSY = 0, with the RESULT
and ERRCODE of the first condition that holds, and with no other; ILLEGAL_CMD comes before all. -/
def Obligations.FirstConditionDecidesTheOutcome : Prop :=
  ∀ (w : Word) (s : State), ∃ t, completeWord w s = .next t ∧ t.latch = none ∧
    (∀ r, decode w = .error r → t.status.result = .error ∧ t.status.errcode = .illegalCmd) ∧
    (∀ i, decode w = .ok i → Ends i s t.status.result t.status.errcode ∧
      ∀ r e, Ends i s r e → r = t.status.result ∧ e = t.status.errcode)

/-- 60_exceptions.md R241, R233, R234: a completion that does not end OK leaves everything but RESULT, ERRCODE and BUSY as
it was: it never follows a partial effect, whatever word was accepted. -/
def Obligations.DeclinedAndFailedChangeNothing : Prop :=
  ∀ (w : Word) (s t : State), completeWord w s = .next t → t.status.result ≠ .ok →
    t = { s with status := { s.status with result := t.status.result, errcode := t.status.errcode }, latch := none }

/-- 60_exceptions.md R236: every command except KEYSET ends with Error(NO_KEY), changing nothing else, when KEY_VALID
is 0; KEYSET never does. -/
def Obligations.NoKeyRefusesEveryOtherCommand : Prop :=
  (∀ (i : Instr) (s : State), i ≠ .keyset → s.status.keyValid = false → exec i s =
    .next { s with status := { s.status with result := .error, errcode := .noKey }, latch := none }) ∧
  (∀ s t : State, exec .keyset s = .next t → t.status.errcode ≠ .noKey)

/-- 30_encoding.md R93, 20_memory.md R84: a command changes no byte outside its written region at ADDR (none for KEYSET,
ENCIPHER and DECIPHER), and never OVR, the agenda, the observations or DMEM_BYTES. -/
def Obligations.CommandsWriteOnlyTheirRegion : Prop :=
  ∀ (i : Instr) (s t : State), exec i s = .next t →
    s.dmem.sameOutside t.dmem s.regs.addr.toNat (writtenBytes i s) ∧
    (writtenBytes i s = 0 → t.dmem = s.dmem) ∧
    t.status.ovr = s.status.ovr ∧ t.agenda = s.agenda ∧ t.observed = s.observed ∧ t.dmemBytes = s.dmemBytes

/-- 10_state.md R27: no command but KEYSET changes KEY_VALID, P or S, and KEYSET never clears KEY_VALID. -/
def Obligations.OnlyKeysetChangesTheCipherState : Prop :=
  ∀ (i : Instr) (s t : State), exec i s = .next t →
    (i ≠ .keyset → t.codec = s.codec ∧ t.status.keyValid = s.status.keyValid) ∧
    (s.status.keyValid = true → t.status.keyValid = true)

/-- 10_state.md R25 to R27, over a step: P, S or KEY_VALID change only when reset happens, or when the CORE takes its
turn on an accepted KEYSET. -/
def Obligations.StepChangesCipherStateOnlyByKeyset : Prop :=
  ∀ s t : State, step s = .next t → t.codec ≠ s.codec ∨ t.status.keyValid ≠ s.status.keyValid →
    (∃ rest, s.agenda = .reset :: rest) ∨
    (∃ l rest, s.latch = some l ∧ l.word = 0x00000001#32 ∧ coreNext s.agenda rest)

/-! ## Reset and the whole machine (70_reset_and_hazards.md) -/

/-- 70_reset_and_hazards.md R270: reset, from any state and also during a command: STATUS and CMD read 0, every RW register
is 0, ID and DMEMSZ read their constants, no command is in flight, every DMEM byte is unwritten; of P and S nothing is said.
That DMEM_BYTES (Log 1), the agenda (Log 4) and the observations (Log 5) stay is the model's choice. -/
def Obligations.ResetFromAnyState : Prop :=
  ∀ (s : State) (rest : List Event), s.agenda = .reset :: rest → ∃ t, step s = .next t ∧ statusWord t = 0#32 ∧
    (hostRead 0#15 t).observed = 0#32 :: s.observed ∧
    t.regs = { addr := 0, len := 0, ivaddr := 0, ivlen := 0, ctrLo := 0, ctrHi := 0, xl := 0, xr := 0 } ∧
    (hostRead 10#15 t).observed = 0x424C4631#32 :: s.observed ∧
    (hostRead 11#15 t).observed = BitVec.ofNat 32 s.dmemBytes :: s.observed ∧
    t.latch = none ∧ (∀ a, t.dmem.get? a = none) ∧ t.dmemBytes = s.dmemBytes ∧ t.agenda = rest ∧
    t.observed = s.observed

/-- 70_reset_and_hazards.md R271: P and S cannot be observed before a KEYSET. Two cores that differ only in P and S, with
KEY_VALID = 0, take the same step: they still differ only in P and S, and not at all once KEY_VALID is 1. -/
def Obligations.UnkeyedCipherStateIsUnobservable : Prop :=
  ∀ (s t : State) (c : Codec), s.status.keyValid = false → step s = .next t →
    ∃ c', step { s with codec := c } = .next { t with codec := c' } ∧ (t.status.keyValid = true → c' = t.codec)

/-- 10_state.md R25, R26 and 20_memory.md R63: the HOST can neither read nor write P and S, keyed or not. A host access
on two cores that differ only in P and S returns the same words and leaves them differing only so. -/
def Obligations.HostCannotReachTheCipherState : Prop :=
  ∀ (s : State) (c : Codec) (off : BitVec 15) (v : Word) (be : BitVec 4),
    (hostWrite off v be s).codec = s.codec ∧ (hostRead off s).codec = s.codec ∧
    hostWrite off v be { s with codec := c } = { hostWrite off v be s with codec := c } ∧
    hostRead off { s with codec := c } = { hostRead off s with codec := c }

/-- The invariant holds right after reset. -/
def Obligations.ResetMeetsTheInvariant : Prop := Inv State.reset

/-- Every step from every state that meets the invariant keeps it: DMEM stays canonical and in range, the latched
operands equal the registers while a command runs, ERRCODE goes with RESULT = ERROR, and KEY_VALID = 1 stands only over
the key schedule of a legal key. -/
def Obligations.EveryStepKeepsTheInvariant : Prop := ∀ s t : State, Inv s → step s = .next t → Inv t
end

