-- ==== Sys2Proof/Laws/Loop.lean ====
section
/-! SUPPORT. The loop of the pseudocode, and the one induction over it. -/

namespace Sys2Proof.Machine

variable {σ τ : Type}

@[simp] theorem loop_zero (body : Nat → σ → σ) (x : σ) : loop 0 body x = x := rfl

theorem loop_succ (n : Nat) (body : Nat → σ → σ) (x : σ) : loop (n + 1) body x = body n (loop n body x) := rfl

/-- The loop rule: a property that holds at the start and that every pass `k < n` carries from `k` to `k + 1` holds after
`n` passes. -/
theorem loop_invariant (motive : Nat → σ → Prop) (n : Nat) (body : Nat → σ → σ) (x : σ) (start : motive 0 x)
    (pass : ∀ k < n, ∀ y, motive k y → motive (k + 1) (body k y)) : motive n (loop n body x) := by
  induction n with
  | zero => exact start
  | succ n ih => exact pass n (Nat.lt_succ_self n) _ (ih fun k hk => pass k (Nat.lt_succ_of_lt hk))

/-- Two loops whose passes agree on related values end related. -/
theorem loop_related (R : σ → τ → Prop) (n : Nat) (body : Nat → σ → σ) (body' : Nat → τ → τ) (x : σ) (y : τ)
    (start : R x y) (pass : ∀ k < n, ∀ u v, R u v → R (body k u) (body' k v)) :
    R (loop n body x) (loop n body' y) := by
  induction n with
  | zero => exact start
  | succ n ih => exact pass n (Nat.lt_succ_self n) _ _ (ih fun k hk => pass k (Nat.lt_succ_of_lt hk))

/-- A loop may run over more passes in two parts. -/
theorem loop_add (n k : Nat) (body : Nat → σ → σ) (x : σ) :
    loop (n + k) body x = loop k (fun i => body (n + i)) (loop n body x) := by
  induction k with
  | zero => rfl
  | succ k ih => rw [← Nat.add_assoc, loop_succ, ih, loop_succ]

end Sys2Proof.Machine
end

