-- ==== Sys2Proof/Laws/Memory.lean ====
section
/-! SUPPORT. Data memory: reading after writing, the canonical form, and the bounds of the addresses. -/

namespace Sys2Proof.Machine

@[simp] theorem get?_nil (a : Nat) : Memory.get? [] a = none := rfl

theorem get?_cons (k : Nat) (v : Byte) (m : Memory) (a : Nat) :
    Memory.get? ((k, v) :: m) a = if k = a then some v else Memory.get? m a := rfl

/-- A read after a write: the byte written, or what was there. -/
theorem get?_put (m : Memory) (a x : Nat) (b : Byte) :
    (m.put a b).get? x = if x = a then some b else m.get? x := by
  induction m with
  | nil => simp [Memory.put, get?_cons, eq_comm]
  | cons c m ih =>
    obtain ⟨k, v⟩ := c
    simp only [Memory.put]
    split_ifs <;> simp only [get?_cons, ih] <;> split_ifs <;> first | rfl | omega

@[simp] theorem get?_put_self (m : Memory) (a : Nat) (b : Byte) : (m.put a b).get? a = some b := by simp [get?_put]

@[simp] theorem get?_put_ne (m : Memory) {a x : Nat} (b : Byte) (h : x ≠ a) : (m.put a b).get? x = m.get? x := by
  simp [get?_put, h]

/-- The cells after a write: the new one and old ones. -/
theorem mem_put {m : Memory} {a : Nat} {b : Byte} {c : Host.Cell} (h : c ∈ m.put a b) : c = (a, b) ∨ c ∈ m := by
  induction m with
  | nil => simpa [Memory.put] using h
  | cons d m ih =>
    obtain ⟨k, v⟩ := d
    simp only [Memory.put] at h
    split_ifs at h <;> simp only [List.mem_cons] at h ⊢ <;> tauto

/-- A write keeps the canonical form. -/
theorem put_wf {m : Memory} (h : m.wf) (a : Nat) (b : Byte) : (m.put a b).wf := by
  induction m with
  | nil => simp [Memory.put, Memory.wf]
  | cons d m ih =>
    obtain ⟨k, v⟩ := d
    obtain ⟨h1, h2⟩ := List.pairwise_cons.mp h
    simp only [Memory.put]
    split_ifs with ha hk
    · refine List.pairwise_cons.mpr ⟨fun c hc => ?_, h⟩
      rcases List.mem_cons.mp hc with rfl | hc
      · exact ha
      · exact Nat.lt_trans ha (h1 c hc)
    · subst hk
      exact List.pairwise_cons.mpr ⟨h1, h2⟩
    · refine List.pairwise_cons.mpr ⟨fun c hc => ?_, ih h2⟩
      rcases mem_put hc with rfl | hc
      · change k < a
        omega
      · exact h1 c hc

/-- A write below a bound keeps all addresses below it. -/
theorem put_inside {m : Memory} {n a : Nat} (h : ∀ c ∈ m, c.1 < n) (ha : a < n) (b : Byte) :
    ∀ c ∈ m.put a b, c.1 < n := fun c hc => by
  rcases mem_put hc with rfl | hc
  · exact ha
  · exact h c hc

/-- A read after a write of several bytes. -/
theorem get?_write (m : Memory) (a x : Nat) (v : List Byte) :
    (m.write a v).get? x = if a ≤ x ∧ x < a + v.length then v[x - a]? else m.get? x := by
  induction v generalizing m a with
  | nil =>
    rw [if_neg (by simp only [List.length_nil]; omega)]
    rfl
  | cons b v ih =>
    rw [Memory.write, ih, get?_put]
    simp only [List.length_cons]
    split_ifs <;> first | omega | rfl | skip
    · obtain ⟨j, hj⟩ : ∃ j, x - a = j + 1 := ⟨x - a - 1, by omega⟩
      rw [hj, List.getElem?_cons_succ]
      congr 1
      omega
    · subst x
      simp

theorem get?_write_outside (m : Memory) (a x : Nat) (v : List Byte) (h : x < a ∨ a + v.length ≤ x) :
    (m.write a v).get? x = m.get? x := by
  rw [get?_write, if_neg (by omega)]

theorem get?_write_inside (m : Memory) (a k : Nat) (v : List Byte) (h : k < v.length) :
    (m.write a v).get? (a + k) = v[k]? := by
  rw [get?_write, if_pos (by omega), Nat.add_sub_cancel_left]

theorem write_wf {m : Memory} (h : m.wf) (a : Nat) (v : List Byte) : (m.write a v).wf := by
  induction v generalizing m a with
  | nil => exact h
  | cons b v ih => exact ih (put_wf h a b) (a + 1)

theorem write_inside {m : Memory} {n a : Nat} (v : List Byte) (h : ∀ c ∈ m, c.1 < n) (ha : a + v.length ≤ n) :
    ∀ c ∈ m.write a v, c.1 < n := by
  induction v generalizing m a with
  | nil => exact h
  | cons b v ih =>
    simp only [List.length_cons] at ha
    exact ih (put_inside h (by omega) b) (by omega)

@[simp] theorem toList_length (b : Block) : b.toList.length = 8 := rfl

theorem get?_writeBlock_outside (m : Memory) (a x : Nat) (b : Block) (h : x < a ∨ a + 8 ≤ x) :
    (m.writeBlock a b).get? x = m.get? x := get?_write_outside m a x b.toList (by simpa using h)

theorem get?_writeBlock_inside (m : Memory) (a k : Nat) (b : Block) (h : k < 8) :
    (m.writeBlock a b).get? (a + k) = b.toList[k]? := get?_write_inside m a k b.toList (by simpa using h)

theorem writeBlock_wf {m : Memory} (h : m.wf) (a : Nat) (b : Block) : (m.writeBlock a b).wf := write_wf h a _

theorem writeBlock_inside {m : Memory} {n a : Nat} (b : Block) (h : ∀ c ∈ m, c.1 < n) (ha : a + 8 ≤ n) :
    ∀ c ∈ m.writeBlock a b, c.1 < n := write_inside b.toList h (by simpa using ha)

theorem byteAt_of_some {m : Memory} {a : Nat} {b : Byte} (h : m.get? a = some b) (d : Nat) : m.byteAt a d = b := by
  simp [Memory.byteAt, h]

/-- Memories that agree at an address read alike there, with the same draw number. -/
theorem byteAt_congr {m m' : Memory} {a : Nat} (h : m.get? a = m'.get? a) (d : Nat) :
    m.byteAt a d = m'.byteAt a d := by
  simp only [Memory.byteAt, h]

@[simp] theorem read_length (m : Memory) (a n d : Nat) : (m.read a n d).length = n := by simp [Memory.read]

theorem read_getElem? (m : Memory) (a n d k : Nat) :
    (m.read a n d)[k]? = if k < n then some (m.byteAt (a + k) (d + k)) else none := by
  simp only [Memory.read, List.getElem?_map]
  split_ifs with h <;> simp [h]

theorem readBlock_congr {m m' : Memory} {a : Nat} (h : ∀ k < 8, m.get? (a + k) = m'.get? (a + k)) (d : Nat) :
    m.readBlock a d = m'.readBlock a d := by
  have e : ∀ k < 8, m.byteAt (a + k) (d + k) = m'.byteAt (a + k) (d + k) := fun k hk => byteAt_congr (h k hk) _
  simp only [Memory.readBlock, Block.ofFn, e 0, e 1, e 2, e 3, e 4, e 5, e 6, e 7, Nat.reduceLT]

end Sys2Proof.Machine
end

