-- ==== Sys2Proof/Laws/Blocks.lean ====
section
/-! SUPPORT. Blocks: packing, XOR, and blocks in memory. -/

namespace Sys2Proof.Machine

@[simp] theorem pack_unpack (b : Block) : pack (unpack b) = b := by
  obtain ⟨b0, b1, b2, b3, b4, b5, b6, b7⟩ := b
  simp only [pack, unpack, Block.mk.injEq]
  refine ⟨?_, ?_, ?_, ?_, ?_, ?_, ?_, ?_⟩ <;>
    (ext i hi; simp [byteN, be32]; try grind)

@[simp] theorem unpack_pack (x : Word × Word) : unpack (pack x) = x := by
  obtain ⟨l, r⟩ := x
  simp only [pack, unpack, Prod.mk.injEq]
  constructor <;> (ext i hi; simp [byteN, be32]; try grind)

@[simp] theorem xor_cancel (x y : Block) : (x.xor y).xor y = x := by
  simp [Block.xor]

theorem xor_comm (x y : Block) : x.xor y = y.xor x := by
  simp [Block.xor, BitVec.xor_comm]

@[simp] theorem counter_withCounter (r : OperandRegs) (c : Counter) : (r.withCounter c).counter = c := by
  simp only [OperandRegs.counter, OperandRegs.withCounter]
  ext i hi
  simp
  grind

/-- The bytes of a block built from a function. -/
theorem toList_ofFn (f : Nat → Byte) (k : Nat) : (Block.ofFn f).toList[k]? = if k < 8 then some (f k) else none := by
  match k with
  | 0 | 1 | 2 | 3 | 4 | 5 | 6 | 7 => rfl
  | n + 8 => simp [Block.toList]

/-- A block is its eight bytes. -/
theorem ofFn_of_toList (b : Block) (f : Nat → Byte) (h : ∀ k < 8, b.toList[k]? = some (f k)) : Block.ofFn f = b := by
  obtain ⟨b0, b1, b2, b3, b4, b5, b6, b7⟩ := b
  have e0 : some b0 = some (f 0) := h 0 (by decide)
  have e1 : some b1 = some (f 1) := h 1 (by decide)
  have e2 : some b2 = some (f 2) := h 2 (by decide)
  have e3 : some b3 = some (f 3) := h 3 (by decide)
  have e4 : some b4 = some (f 4) := h 4 (by decide)
  have e5 : some b5 = some (f 5) := h 5 (by decide)
  have e6 : some b6 = some (f 6) := h 6 (by decide)
  have e7 : some b7 = some (f 7) := h 7 (by decide)
  simp_all [Block.ofFn]

theorem toList_getElem?_some (b : Block) {k : Nat} (h : k < 8) : ∃ v, b.toList[k]? = some v :=
  ⟨b.toList[k], List.getElem?_eq_getElem (by simpa using h)⟩

/-- A block that memory holds is what a read of it gives, whatever the draws. -/
theorem readBlock_of_holds {m : Memory} {a : Nat} {b : Block} (h : m.holdsBlock a b) (d : Nat) : m.readBlock a d = b :=
  ofFn_of_toList b _ fun k hk => by
    obtain ⟨v, hv⟩ := toList_getElem?_some b hk
    rw [hv, byteAt_of_some ((h k hk).trans hv)]

/-- Written bytes are held as what a read of them gives. -/
theorem holds_of_written {m : Memory} {a d : Nat} (h : ∀ k < 8, (m.get? (a + k)).isSome) :
    m.holdsBlock a (m.readBlock a d) := fun k hk => by
  obtain ⟨v, hv⟩ := Option.isSome_iff_exists.mp (h k hk)
  rw [Memory.readBlock, toList_ofFn, if_pos hk, byteAt_of_some hv, hv]

theorem writeBlock_holds (m : Memory) (a : Nat) (b : Block) : (m.writeBlock a b).holdsBlock a b :=
  fun k hk => get?_writeBlock_inside m a k b hk

theorem writeBlock_sameOutside (m : Memory) (a : Nat) (b : Block) : m.sameOutside (m.writeBlock a b) a 8 :=
  fun x hx => get?_writeBlock_outside m a x b hx

theorem holds_congr {m m' : Memory} {a : Nat} {b : Block} (h : ∀ k < 8, m'.get? (a + k) = m.get? (a + k))
    (hb : m.holdsBlock a b) : m'.holdsBlock a b := fun k hk => (h k hk).trans (hb k hk)

/-- The bytes of the XOR of two blocks. -/
theorem toList_xor (x y : Block) : (x.xor y).toList = List.zipWith (· ^^^ ·) x.toList y.toList := rfl

end Sys2Proof.Machine
end

