-- ==== Sys2Proof/Laws/State.lean ====
section
/-! SUPPORT. One lemma per field per update of the state, so that no later proof unfolds a record update. -/

namespace Sys2Proof.Machine

variable (s : State)

@[simp] theorem withDmem_dmemBytes (m : Memory) : (s.withDmem m).dmemBytes = s.dmemBytes := rfl
@[simp] theorem withDmem_regs (m : Memory) : (s.withDmem m).regs = s.regs := rfl
@[simp] theorem withDmem_status (m : Memory) : (s.withDmem m).status = s.status := rfl
@[simp] theorem withDmem_codec (m : Memory) : (s.withDmem m).codec = s.codec := rfl
@[simp] theorem withDmem_dmem (m : Memory) : (s.withDmem m).dmem = m := rfl
@[simp] theorem withDmem_latch (m : Memory) : (s.withDmem m).latch = s.latch := rfl
@[simp] theorem withDmem_agenda (m : Memory) : (s.withDmem m).agenda = s.agenda := rfl
@[simp] theorem withDmem_observed (m : Memory) : (s.withDmem m).observed = s.observed := rfl
@[simp] theorem withDmem_draws (m : Memory) : (s.withDmem m).draws = s.draws := rfl

@[simp] theorem withRegs_dmemBytes (r : OperandRegs) : (s.withRegs r).dmemBytes = s.dmemBytes := rfl
@[simp] theorem withRegs_regs (r : OperandRegs) : (s.withRegs r).regs = r := rfl
@[simp] theorem withRegs_status (r : OperandRegs) : (s.withRegs r).status = s.status := rfl
@[simp] theorem withRegs_codec (r : OperandRegs) : (s.withRegs r).codec = s.codec := rfl
@[simp] theorem withRegs_dmem (r : OperandRegs) : (s.withRegs r).dmem = s.dmem := rfl
@[simp] theorem withRegs_latch (r : OperandRegs) : (s.withRegs r).latch = s.latch := rfl
@[simp] theorem withRegs_agenda (r : OperandRegs) : (s.withRegs r).agenda = s.agenda := rfl
@[simp] theorem withRegs_observed (r : OperandRegs) : (s.withRegs r).observed = s.observed := rfl
@[simp] theorem withRegs_draws (r : OperandRegs) : (s.withRegs r).draws = s.draws := rfl

@[simp] theorem withStatus_dmemBytes (t : Status) : (s.withStatus t).dmemBytes = s.dmemBytes := rfl
@[simp] theorem withStatus_regs (t : Status) : (s.withStatus t).regs = s.regs := rfl
@[simp] theorem withStatus_status (t : Status) : (s.withStatus t).status = t := rfl
@[simp] theorem withStatus_codec (t : Status) : (s.withStatus t).codec = s.codec := rfl
@[simp] theorem withStatus_dmem (t : Status) : (s.withStatus t).dmem = s.dmem := rfl
@[simp] theorem withStatus_latch (t : Status) : (s.withStatus t).latch = s.latch := rfl
@[simp] theorem withStatus_agenda (t : Status) : (s.withStatus t).agenda = s.agenda := rfl
@[simp] theorem withStatus_observed (t : Status) : (s.withStatus t).observed = s.observed := rfl
@[simp] theorem withStatus_draws (t : Status) : (s.withStatus t).draws = s.draws := rfl

@[simp] theorem withCodec_dmemBytes (c : Codec) : (s.withCodec c).dmemBytes = s.dmemBytes := rfl
@[simp] theorem withCodec_regs (c : Codec) : (s.withCodec c).regs = s.regs := rfl
@[simp] theorem withCodec_status (c : Codec) : (s.withCodec c).status = s.status := rfl
@[simp] theorem withCodec_codec (c : Codec) : (s.withCodec c).codec = c := rfl
@[simp] theorem withCodec_dmem (c : Codec) : (s.withCodec c).dmem = s.dmem := rfl
@[simp] theorem withCodec_latch (c : Codec) : (s.withCodec c).latch = s.latch := rfl
@[simp] theorem withCodec_agenda (c : Codec) : (s.withCodec c).agenda = s.agenda := rfl
@[simp] theorem withCodec_observed (c : Codec) : (s.withCodec c).observed = s.observed := rfl
@[simp] theorem withCodec_draws (c : Codec) : (s.withCodec c).draws = s.draws := rfl

@[simp] theorem withLatch_dmemBytes (l : Option Latch) : (s.withLatch l).dmemBytes = s.dmemBytes := rfl
@[simp] theorem withLatch_regs (l : Option Latch) : (s.withLatch l).regs = s.regs := rfl
@[simp] theorem withLatch_status (l : Option Latch) : (s.withLatch l).status = s.status := rfl
@[simp] theorem withLatch_codec (l : Option Latch) : (s.withLatch l).codec = s.codec := rfl
@[simp] theorem withLatch_dmem (l : Option Latch) : (s.withLatch l).dmem = s.dmem := rfl
@[simp] theorem withLatch_latch (l : Option Latch) : (s.withLatch l).latch = l := rfl
@[simp] theorem withLatch_agenda (l : Option Latch) : (s.withLatch l).agenda = s.agenda := rfl
@[simp] theorem withLatch_observed (l : Option Latch) : (s.withLatch l).observed = s.observed := rfl
@[simp] theorem withLatch_draws (l : Option Latch) : (s.withLatch l).draws = s.draws := rfl

@[simp] theorem withAgenda_dmemBytes (es : List Event) : (s.withAgenda es).dmemBytes = s.dmemBytes := rfl
@[simp] theorem withAgenda_regs (es : List Event) : (s.withAgenda es).regs = s.regs := rfl
@[simp] theorem withAgenda_status (es : List Event) : (s.withAgenda es).status = s.status := rfl
@[simp] theorem withAgenda_codec (es : List Event) : (s.withAgenda es).codec = s.codec := rfl
@[simp] theorem withAgenda_dmem (es : List Event) : (s.withAgenda es).dmem = s.dmem := rfl
@[simp] theorem withAgenda_latch (es : List Event) : (s.withAgenda es).latch = s.latch := rfl
@[simp] theorem withAgenda_agenda (es : List Event) : (s.withAgenda es).agenda = es := rfl
@[simp] theorem withAgenda_observed (es : List Event) : (s.withAgenda es).observed = s.observed := rfl
@[simp] theorem withAgenda_draws (es : List Event) : (s.withAgenda es).draws = s.draws := rfl

@[simp] theorem usedDraws_dmemBytes (n : Nat) : (s.usedDraws n).dmemBytes = s.dmemBytes := rfl
@[simp] theorem usedDraws_regs (n : Nat) : (s.usedDraws n).regs = s.regs := rfl
@[simp] theorem usedDraws_status (n : Nat) : (s.usedDraws n).status = s.status := rfl
@[simp] theorem usedDraws_codec (n : Nat) : (s.usedDraws n).codec = s.codec := rfl
@[simp] theorem usedDraws_dmem (n : Nat) : (s.usedDraws n).dmem = s.dmem := rfl
@[simp] theorem usedDraws_latch (n : Nat) : (s.usedDraws n).latch = s.latch := rfl
@[simp] theorem usedDraws_agenda (n : Nat) : (s.usedDraws n).agenda = s.agenda := rfl
@[simp] theorem usedDraws_observed (n : Nat) : (s.usedDraws n).observed = s.observed := rfl
@[simp] theorem usedDraws_draws (n : Nat) : (s.usedDraws n).draws = s.draws + n := rfl

@[simp] theorem observe_dmemBytes (w : Word) : (s.observe w).dmemBytes = s.dmemBytes := rfl
@[simp] theorem observe_regs (w : Word) : (s.observe w).regs = s.regs := rfl
@[simp] theorem observe_status (w : Word) : (s.observe w).status = s.status := rfl
@[simp] theorem observe_codec (w : Word) : (s.observe w).codec = s.codec := rfl
@[simp] theorem observe_dmem (w : Word) : (s.observe w).dmem = s.dmem := rfl
@[simp] theorem observe_latch (w : Word) : (s.observe w).latch = s.latch := rfl
@[simp] theorem observe_agenda (w : Word) : (s.observe w).agenda = s.agenda := rfl
@[simp] theorem observe_observed (w : Word) : (s.observe w).observed = w :: s.observed := rfl
@[simp] theorem observe_draws (w : Word) : (s.observe w).draws = s.draws := rfl

@[simp] theorem complete_dmemBytes (r : Result) (e : ErrCode) : (s.complete r e).dmemBytes = s.dmemBytes := rfl
@[simp] theorem complete_regs (r : Result) (e : ErrCode) : (s.complete r e).regs = s.regs := rfl
@[simp] theorem complete_status (r : Result) (e : ErrCode) : (s.complete r e).status = s.status.withOutcome r e := rfl
@[simp] theorem complete_codec (r : Result) (e : ErrCode) : (s.complete r e).codec = s.codec := rfl
@[simp] theorem complete_dmem (r : Result) (e : ErrCode) : (s.complete r e).dmem = s.dmem := rfl
@[simp] theorem complete_latch (r : Result) (e : ErrCode) : (s.complete r e).latch = none := rfl
@[simp] theorem complete_agenda (r : Result) (e : ErrCode) : (s.complete r e).agenda = s.agenda := rfl
@[simp] theorem complete_observed (r : Result) (e : ErrCode) : (s.complete r e).observed = s.observed := rfl
@[simp] theorem complete_draws (r : Result) (e : ErrCode) : (s.complete r e).draws = s.draws := rfl

@[simp] theorem accept_dmemBytes (w : Word) : (accept w s).dmemBytes = s.dmemBytes := rfl
@[simp] theorem accept_regs (w : Word) : (accept w s).regs = s.regs := rfl
@[simp] theorem accept_status (w : Word) : (accept w s).status = s.status.withOutcome .noOutcome .noError := rfl
@[simp] theorem accept_codec (w : Word) : (accept w s).codec = s.codec := rfl
@[simp] theorem accept_dmem (w : Word) : (accept w s).dmem = s.dmem := rfl
@[simp] theorem accept_latch (w : Word) : (accept w s).latch = some { word := w, operands := s.regs } := rfl
@[simp] theorem accept_agenda (w : Word) : (accept w s).agenda = s.agenda := rfl
@[simp] theorem accept_observed (w : Word) : (accept w s).observed = s.observed := rfl
@[simp] theorem accept_draws (w : Word) : (accept w s).draws = s.draws := rfl

@[simp] theorem dropAccess_dmemBytes : (dropAccess s).dmemBytes = s.dmemBytes := rfl
@[simp] theorem dropAccess_regs : (dropAccess s).regs = s.regs := rfl
@[simp] theorem dropAccess_status : (dropAccess s).status = s.status.withOvr true := rfl
@[simp] theorem dropAccess_codec : (dropAccess s).codec = s.codec := rfl
@[simp] theorem dropAccess_dmem : (dropAccess s).dmem = s.dmem := rfl
@[simp] theorem dropAccess_latch : (dropAccess s).latch = s.latch := rfl
@[simp] theorem dropAccess_agenda : (dropAccess s).agenda = s.agenda := rfl
@[simp] theorem dropAccess_observed : (dropAccess s).observed = s.observed := rfl
@[simp] theorem dropAccess_draws : (dropAccess s).draws = s.draws := rfl

@[simp] theorem resetCore_dmemBytes : (resetCore s).dmemBytes = s.dmemBytes := rfl
@[simp] theorem resetCore_regs : (resetCore s).regs = OperandRegs.reset := rfl
@[simp] theorem resetCore_status : (resetCore s).status = Status.reset := rfl
@[simp] theorem resetCore_codec : (resetCore s).codec = Codec.afterReset s.draws := rfl
@[simp] theorem resetCore_dmem : (resetCore s).dmem = [] := rfl
@[simp] theorem resetCore_latch : (resetCore s).latch = none := rfl
@[simp] theorem resetCore_agenda : (resetCore s).agenda = s.agenda := rfl
@[simp] theorem resetCore_observed : (resetCore s).observed = s.observed := rfl
@[simp] theorem resetCore_draws : (resetCore s).draws = s.draws + 1 := rfl

variable (t : Status) (r : Result) (e : ErrCode) (b : Bool)

@[simp] theorem withOutcome_keyValid : (t.withOutcome r e).keyValid = t.keyValid := rfl
@[simp] theorem withOutcome_result : (t.withOutcome r e).result = r := rfl
@[simp] theorem withOutcome_errcode : (t.withOutcome r e).errcode = e := rfl
@[simp] theorem withOutcome_ovr : (t.withOutcome r e).ovr = t.ovr := rfl

@[simp] theorem withKey_keyValid : (t.withKey).keyValid = true := rfl
@[simp] theorem withKey_result : (t.withKey).result = t.result := rfl
@[simp] theorem withKey_errcode : (t.withKey).errcode = t.errcode := rfl
@[simp] theorem withKey_ovr : (t.withKey).ovr = t.ovr := rfl

@[simp] theorem withOvr_keyValid : (t.withOvr b).keyValid = t.keyValid := rfl
@[simp] theorem withOvr_result : (t.withOvr b).result = t.result := rfl
@[simp] theorem withOvr_errcode : (t.withOvr b).errcode = t.errcode := rfl
@[simp] theorem withOvr_ovr : (t.withOvr b).ovr = b := rfl

variable (x : OperandRegs) (c : Counter) (p : Word × Word)

@[simp] theorem withCounter_addr : (x.withCounter c).addr = x.addr := rfl
@[simp] theorem withCounter_len : (x.withCounter c).len = x.len := rfl
@[simp] theorem withCounter_ivaddr : (x.withCounter c).ivaddr = x.ivaddr := rfl
@[simp] theorem withCounter_ivlen : (x.withCounter c).ivlen = x.ivlen := rfl
@[simp] theorem withCounter_ctrLo : (x.withCounter c).ctrLo = c.extractLsb' 0 32 := rfl
@[simp] theorem withCounter_ctrHi : (x.withCounter c).ctrHi = c.extractLsb' 32 32 := rfl
@[simp] theorem withCounter_xl : (x.withCounter c).xl = x.xl := rfl
@[simp] theorem withCounter_xr : (x.withCounter c).xr = x.xr := rfl

@[simp] theorem withPair_addr : (x.withPair p).addr = x.addr := rfl
@[simp] theorem withPair_len : (x.withPair p).len = x.len := rfl
@[simp] theorem withPair_ivaddr : (x.withPair p).ivaddr = x.ivaddr := rfl
@[simp] theorem withPair_ivlen : (x.withPair p).ivlen = x.ivlen := rfl
@[simp] theorem withPair_ctrLo : (x.withPair p).ctrLo = x.ctrLo := rfl
@[simp] theorem withPair_ctrHi : (x.withPair p).ctrHi = x.ctrHi := rfl
@[simp] theorem withPair_xl : (x.withPair p).xl = p.1 := rfl
@[simp] theorem withPair_xr : (x.withPair p).xr = p.2 := rfl

/-- BUSY is the fullness of the latch. -/
@[simp] theorem busy_withLatch (l : Option Latch) : (s.withLatch l).busy = l.isSome := rfl

@[simp] theorem busy_complete : (s.complete r e).busy = false := rfl

@[simp] theorem busy_accept (w : Word) : (accept w s).busy = true := rfl

@[simp] theorem busy_resetCore : (resetCore s).busy = false := rfl

end Sys2Proof.Machine
end

