-- ==== Sys2Proof/Laws/Bus.lean ====
section
/-! SUPPORT. What a host access can do, said once. -/

namespace Sys2Proof.Machine

/-- A host write does one of these (20_memory.md R60 to R68): nothing, drop with OVR, clear OVR, accept a command,
write an RW register, write a DMEM word. -/
theorem hostWrite_cases (off : BitVec 15) (v : Word) (be : BitVec 4) (s : State) :
    hostWrite off v be s = s ∨
    (s.busy = true ∧ hostWrite off v be s = dropAccess s) ∨
    (targetOf s.dmemBytes off = .reg .status ∧ hostWrite off v be s = s.withStatus (s.status.withOvr false)) ∨
    (s.busy = false ∧ targetOf s.dmemBytes off = .reg .cmd ∧ hostWrite off v be s = accept v s) ∨
    (s.busy = false ∧ ∃ r, targetOf s.dmemBytes off = .reg r ∧
      hostWrite off v be s = s.withRegs (s.regs.write r v)) ∨
    (s.busy = false ∧ ∃ a, targetOf s.dmemBytes off = .dmem a ∧
      hostWrite off v be s = s.withDmem (loop 4 (writeLane a v be) s.dmem)) := by
  unfold hostWrite
  split
  · rename_i r hr
    split_ifs with hbe
    · cases r <;> simp only [writeReg] <;> (try split_ifs) <;> simp_all
    · exact .inl rfl
  · rename_i a ha
    unfold writeDmemWord
    split_ifs <;> simp_all
  · exact .inl rfl

/-- A host read records one word and perhaps uses free values; nothing else changes (20_memory.md R74). -/
theorem hostRead_cases (off : BitVec 15) (s : State) :
    ∃ w n, hostRead off s = (s.observe w).usedDraws n := by
  unfold hostRead
  split
  · unfold readReg
    split_ifs
    · exact ⟨_, _, rfl⟩
    · exact ⟨_, 0, rfl⟩
  · unfold readDmemWord
    split_ifs <;> exact ⟨_, _, rfl⟩
  · exact ⟨_, 0, rfl⟩

/-- A read of STATUS returns its word, at any time (20_memory.md R67). -/
theorem hostRead_status (s : State) : hostRead (wordOffset (regOffset .status)) s = s.observe (statusWord s) := by
  show readReg .status s = _
  simp [readReg, volatileReg, regValue]

/-- A word of the DMEM window lies inside DMEM if its first byte does, for a legal size (20_memory.md R64). -/
theorem targetOf_dmem {n a : Nat} {off : BitVec 15} (h : targetOf n off = .dmem a) :
    a < n ∧ a % 4 = 0 ∧ a < 0x10000 := by
  unfold targetOf at h
  split_ifs at h with h1 h2
  · split at h <;> simp at h
  · simp only [Target.dmem.injEq] at h
    have := off.isLt
    simp only [byteOffset] at *
    omega

/-- The words of the DMEM window below DMEM_BYTES (20_memory.md R61, R64). -/
theorem targetOf_dmemWord (n : Nat) (off : BitVec 15) (h : 0x10000 ≤ 4 * off.toNat ∧ 4 * off.toNat < 0x10000 + n) :
    targetOf n off = .dmem (4 * off.toNat - 0x10000) := by
  unfold targetOf byteOffset
  rw [if_neg (by omega), if_pos (by omega)]

/-- A DMEM write sets the enabled lanes and no other byte (20_memory.md R64). -/
theorem writeLanes_spec (m : Memory) (a : Nat) (v : Word) (be : BitVec 4) (n : Nat) :
    (∀ j < n, (loop n (writeLane a v be) m).get? (a + j) =
      if be.getLsbD j then some (v.extractLsb' (8 * j) 8) else m.get? (a + j)) ∧
    m.sameOutside (loop n (writeLane a v be) m) a n := by
  refine loop_invariant (fun n m' => (∀ j < n, m'.get? (a + j) =
    if be.getLsbD j then some (v.extractLsb' (8 * j) 8) else m.get? (a + j)) ∧ m.sameOutside m' a n) n _ m
    ⟨by simp, fun _ _ => rfl⟩ ?_
  rintro k - m' ⟨held, out⟩
  refine ⟨fun j hj => ?_, fun x hx => ?_⟩
  · unfold writeLane
    rcases Nat.lt_succ_iff_lt_or_eq.mp hj with h | rfl <;> split
    · rw [get?_put_ne _ _ (by omega)]
      exact held j h
    · exact held j h
    · simp
    · exact out _ (by omega)
  · unfold writeLane
    split
    · rw [get?_put_ne _ _ (by omega)]
      exact out x (by omega)
    · exact out x (by omega)

end Sys2Proof.Machine
end

