-- ==== Sys2Proof/Laws/Cipher.lean ====
section
/-! SUPPORT. The cipher functions, one small lemma each. -/

namespace Sys2Proof.Machine

theorem roundStep_eq (c : Codec) (a b : Word) (k : Nat) : roundStep c a b k = roundF c b ^^^ c.subkey k ^^^ a := rfl

/-- A round with the same other half and subkey undoes itself (40_codec.md R126). -/
@[simp] theorem roundStep_roundStep (c : Codec) (a b : Word) (k : Nat) :
    roundStep c (roundStep c a b k) b k = a := by
  simp only [roundStep_eq, ← BitVec.xor_assoc]
  rw [BitVec.xor_assoc (roundF c b ^^^ c.subkey k), BitVec.xor_comm, BitVec.xor_assoc]
  simp

@[simp] theorem xor_key_key (x k : Word) : x ^^^ k ^^^ k = x := by rw [BitVec.xor_assoc]; simp

theorem encipherPair_eq (c : Codec) (m : Nat) (l r : Word) :
    encipherPair c m (l, r) = (roundStep c l (roundStep c r l (2 * m + 1)) (2 * m + 2), roundStep c r l (2 * m + 1)) := rfl

theorem decipherPair_eq (c : Codec) (m : Nat) (l r : Word) :
    decipherPair c m (l, r) =
      (roundStep c l (roundStep c r l (16 - 2 * m)) (16 - 2 * m - 1), roundStep c r l (16 - 2 * m)) := rfl

/-- The key schedule depends on the key only through its 18 key words (40_codec.md R132). -/
theorem mixKey_congr {k k' : List Byte} (c : Codec) (h : ∀ i < 18, keyWord k i = keyWord k' i) :
    mixKey k c = mixKey k' c := by
  simp only [mixKey, Codec.mk.injEq, and_true]
  congr 1
  funext i
  rw [h i.val i.isLt]

@[simp] theorem advance_codec (w : KeyWork) : w.advance.codec = w.codec := rfl

@[simp] theorem storeP_S (i : Nat) (w : KeyWork) : (w.storeP i).codec.S = w.codec.S := rfl

@[simp] theorem storeS_P (j n : Nat) (w : KeyWork) : (w.storeS j n).codec.P = w.codec.P := by
  unfold KeyWork.storeS
  split <;> rfl

end Sys2Proof.Machine
end

