-- ==== Sys2Proof/Laws/Outcome.lean ====
section
/-! SUPPORT. What each shared command shape can answer, said once; later proofs cite these instead of unfolding it. -/

namespace Sys2Proof.Machine

variable {s t : State}

theorem finish_eq : finish s = .next t ↔ t = s.complete .ok .noError := by
  simp [finish, eq_comm]

theorem decline_eq : decline s = .next t ↔ t = s.complete .declined .noError := by
  simp [decline, eq_comm]

theorem raiseError_eq {e : ErrCode} : raiseError e s = .next t ↔ t = s.complete .error e := by
  simp [raiseError, eq_comm]

/-- KEYSET (40_codec.md R130). -/
theorem execKeyset_cases (h : execKeyset s = .next t) :
    ((s.dataLen < 8 ∨ 448 < s.dataLen) ∧ t = s.complete .error .invalidKey) ∨
    ((8 ≤ s.dataLen ∧ s.dataLen ≤ 448) ∧ s.dmemBytes < s.dataAddr + s.dataLen ∧ t = s.complete .error .range) ∨
    ((8 ≤ s.dataLen ∧ s.dataLen ≤ 448) ∧ s.dataAddr + s.dataLen ≤ s.dmemBytes ∧
      t = (((s.withCodec (keySchedule (s.dmem.read s.dataAddr s.dataLen s.draws))).withStatus
        s.status.withKey).usedDraws s.dataLen).complete .ok .noError) := by
  simp only [execKeyset, Config.keyMinBytes, Config.keyMaxBytes] at h
  split_ifs at h with h1 h2
  · exact .inl ⟨h1, raiseError_eq.mp h⟩
  · exact .inr (.inl ⟨by omega, h2, raiseError_eq.mp h⟩)
  · exact .inr (.inr ⟨by omega, by omega, finish_eq.mp h⟩)

/-- ENCIPHER and DECIPHER (40_codec.md R134, R135). -/
theorem pairCommand_cases {f : Codec → Word × Word → Word × Word} (h : pairCommand f s = .next t) :
    (s.status.keyValid = false ∧ t = s.complete .error .noKey) ∨
    (s.status.keyValid = true ∧ t = (s.withRegs (s.regs.withPair (f s.codec s.regs.pair))).complete .ok .noError) := by
  simp only [pairCommand] at h
  split_ifs at h with h1
  · exact .inl ⟨h1, raiseError_eq.mp h⟩
  · exact .inr ⟨by simpa using h1, finish_eq.mp h⟩

/-- BLK_ENC and BLK_DEC (40_codec.md R136, R137). -/
theorem blockCommand_cases {f : Codec → Block → Block} (h : blockCommand f s = .next t) :
    (s.status.keyValid = false ∧ t = s.complete .error .noKey) ∨
    (s.status.keyValid = true ∧ s.dmemBytes < s.dataAddr + 8 ∧ t = s.complete .error .range) ∨
    (s.status.keyValid = true ∧ s.dataAddr + 8 ≤ s.dmemBytes ∧
      t = ((s.withDmem (s.dmem.writeBlock s.dataAddr (f s.codec (s.dmem.readBlock s.dataAddr s.draws)))).usedDraws
        8).complete .ok .noError) := by
  simp only [blockCommand] at h
  split_ifs at h with h1 h2
  · exact .inl ⟨h1, raiseError_eq.mp h⟩
  · exact .inr (.inl ⟨by simpa using h1, h2, raiseError_eq.mp h⟩)
  · exact .inr (.inr ⟨by simpa using h1, by omega, finish_eq.mp h⟩)

/-- ECB_ENC and ECB_DEC (41_ecb.md R161 to R163). -/
theorem ecbCommand_cases {f : Codec → Block → Block} (h : ecbCommand f s = .next t) :
    (s.status.keyValid = false ∧ t = s.complete .error .noKey) ∨
    (s.status.keyValid = true ∧ (s.dataLen = 0 ∨ s.dataLen % 8 ≠ 0) ∧ t = s.complete .declined .noError) ∨
    (s.status.keyValid = true ∧ ¬ (s.dataLen = 0 ∨ s.dataLen % 8 ≠ 0) ∧ s.dmemBytes < s.dataAddr + s.dataLen ∧
      t = s.complete .error .range) ∨
    (s.status.keyValid = true ∧ ¬ (s.dataLen = 0 ∨ s.dataLen % 8 ≠ 0) ∧ s.dataAddr + s.dataLen ≤ s.dmemBytes ∧
      t = ((s.withDmem (loop (s.dataLen / 8) (ecbBlock (f s.codec) s.dataAddr s.draws) s.dmem)).usedDraws
        s.dataLen).complete .ok .noError) := by
  simp only [ecbCommand] at h
  split_ifs at h with h1 h2 h3
  · exact .inl ⟨h1, raiseError_eq.mp h⟩
  · exact .inr (.inl ⟨by simpa using h1, h2, decline_eq.mp h⟩)
  · exact .inr (.inr (.inl ⟨by simpa using h1, h2, h3, raiseError_eq.mp h⟩))
  · exact .inr (.inr (.inr ⟨by simpa using h1, h2, by omega, finish_eq.mp h⟩))

/-- CBC_ENC and CBC_DEC (42_cbc.md R180 to R183). -/
theorem cbcCommand_cases {pass : Codec → Nat → Nat → Nat → CbcWork → CbcWork} (h : cbcCommand pass s = .next t) :
    (s.status.keyValid = false ∧ t = s.complete .error .noKey) ∨
    (s.status.keyValid = true ∧ (s.dataLen = 0 ∨ s.dataLen % 8 ≠ 0 ∨ s.ivLen ≠ 8) ∧
      t = s.complete .declined .noError) ∨
    (s.status.keyValid = true ∧ ¬ (s.dataLen = 0 ∨ s.dataLen % 8 ≠ 0 ∨ s.ivLen ≠ 8) ∧
      (s.dmemBytes < s.dataAddr + s.dataLen ∨ s.dmemBytes < s.ivAddr + 8) ∧ t = s.complete .error .range) ∨
    (s.status.keyValid = true ∧ ¬ (s.dataLen = 0 ∨ s.dataLen % 8 ≠ 0 ∨ s.ivLen ≠ 8) ∧
      (s.dataAddr + s.dataLen ≤ s.dmemBytes ∧ s.ivAddr + 8 ≤ s.dmemBytes) ∧
      t = ((s.withDmem (loop (s.dataLen / 8) (pass s.codec s.dataAddr (s.draws + 8))
        { dmem := s.dmem, prev := s.dmem.readBlock s.ivAddr s.draws }).dmem).usedDraws (8 + s.dataLen)).complete
        .ok .noError) := by
  simp only [cbcCommand, Config.ivBytes] at h
  split_ifs at h with h1 h2 h3
  · exact .inl ⟨h1, raiseError_eq.mp h⟩
  · exact .inr (.inl ⟨by simpa using h1, h2, decline_eq.mp h⟩)
  · exact .inr (.inr (.inl ⟨by simpa using h1, h2, h3, raiseError_eq.mp h⟩))
  · exact .inr (.inr (.inr ⟨by simpa using h1, h2, by omega, finish_eq.mp h⟩))

/-- CTR_CRYPT (43_ctr.md R200 to R206). -/
theorem execCtrCrypt_cases (h : execCtrCrypt s = .next t) :
    (s.status.keyValid = false ∧ t = s.complete .error .noKey) ∨
    (s.status.keyValid = true ∧ (s.dataLen = 0 ∨ s.ivLen ≠ 8) ∧ t = s.complete .declined .noError) ∨
    (s.status.keyValid = true ∧ ¬ (s.dataLen = 0 ∨ s.ivLen ≠ 8) ∧
      (s.dmemBytes < s.dataAddr + s.dataLen ∨ s.dmemBytes < s.ivAddr + 8) ∧ t = s.complete .error .range) ∨
    (s.status.keyValid = true ∧ ¬ (s.dataLen = 0 ∨ s.ivLen ≠ 8) ∧
      (s.dataAddr + s.dataLen ≤ s.dmemBytes ∧ s.ivAddr + 8 ≤ s.dmemBytes) ∧
      t = (((s.withDmem (loop (ctrBlocks s.dataLen) (ctrBlock s.codec (s.dmem.readBlock s.ivAddr s.draws)
        s.regs.counter s.dataAddr s.dataLen (s.draws + 8)) s.dmem)).withRegs (s.regs.withCounter
        (ctrCounter s.regs.counter (ctrBlocks s.dataLen)))).usedDraws (8 + s.dataLen)).complete .ok .noError) := by
  simp only [execCtrCrypt, Config.ivBytes] at h
  split_ifs at h with h1 h2 h3
  · exact .inl ⟨h1, raiseError_eq.mp h⟩
  · exact .inr (.inl ⟨by simpa using h1, h2, decline_eq.mp h⟩)
  · exact .inr (.inr (.inl ⟨by simpa using h1, h2, h3, raiseError_eq.mp h⟩))
  · exact .inr (.inr (.inr ⟨by simpa using h1, h2, by omega, finish_eq.mp h⟩))

/-- ECB with a key, a good length and the data inside DMEM completes (41_ecb.md R162). -/
theorem ecbCommand_ok (f : Codec → Block → Block) (key : s.status.keyValid = true) (some : s.dataLen ≠ 0)
    (whole : s.dataLen % 8 = 0) (data : s.dataAddr + s.dataLen ≤ s.dmemBytes) :
    ecbCommand f s = .next (((s.withDmem (loop (s.dataLen / 8) (ecbBlock (f s.codec) s.dataAddr s.draws)
      s.dmem)).usedDraws s.dataLen).complete .ok .noError) := by
  rw [ecbCommand, if_neg (by simp [key]), if_neg (by omega), if_neg (by omega), finish]

/-- CBC with a key, good lengths and both regions inside DMEM completes (42_cbc.md R182, R183). -/
theorem cbcCommand_ok (pass : Codec → Nat → Nat → Nat → CbcWork → CbcWork) (key : s.status.keyValid = true)
    (some : s.dataLen ≠ 0) (whole : s.dataLen % 8 = 0) (eight : s.ivLen = 8)
    (data : s.dataAddr + s.dataLen ≤ s.dmemBytes) (iv : s.ivAddr + 8 ≤ s.dmemBytes) :
    cbcCommand pass s = .next (((s.withDmem (loop (s.dataLen / 8) (pass s.codec s.dataAddr (s.draws + 8))
      { dmem := s.dmem, prev := s.dmem.readBlock s.ivAddr s.draws }).dmem).usedDraws (8 + s.dataLen)).complete
      .ok .noError) := by
  rw [cbcCommand, if_neg (by simp [key]), if_neg (by simp only [Config.ivBytes]; omega), if_neg (by omega), finish]

/-- CTR with a key, good lengths and both regions inside DMEM completes (43_ctr.md R204). -/
theorem execCtrCrypt_ok (key : s.status.keyValid = true) (some : s.dataLen ≠ 0) (eight : s.ivLen = 8)
    (data : s.dataAddr + s.dataLen ≤ s.dmemBytes) (iv : s.ivAddr + 8 ≤ s.dmemBytes) :
    execCtrCrypt s = .next ((((s.withDmem (loop (ctrBlocks s.dataLen) (ctrBlock s.codec
      (s.dmem.readBlock s.ivAddr s.draws) s.regs.counter s.dataAddr s.dataLen (s.draws + 8)) s.dmem)).withRegs
      (s.regs.withCounter (ctrCounter s.regs.counter (ctrBlocks s.dataLen)))).usedDraws (8 + s.dataLen)).complete
      .ok .noError) := by
  rw [execCtrCrypt, if_neg (by simp [key]), if_neg (by simp only [Config.ivBytes]; omega), if_neg (by omega), finish]

end Sys2Proof.Machine
end

