-- ==== Sys2Proof/Laws/MemoryForm.lean ====
section
/-! SUPPORT. The loops of the mode controllers and the host's byte lanes keep the canonical form of data memory and stay inside it. -/

namespace Sys2Proof.Machine

/-- Canonical form with every address below `n`. -/
def Memory.good (m : Memory) (n : Nat) : Prop := m.wf ∧ ∀ c ∈ m, c.1 < n

theorem writeBlock_good {m : Memory} {n a : Nat} (h : m.good n) (ha : a + 8 ≤ n) (b : Block) : (m.writeBlock a b).good n :=
  ⟨writeBlock_wf h.1 a b, writeBlock_inside b h.2 ha⟩

theorem write_good {m : Memory} {n a : Nat} (h : m.good n) (v : List Byte) (ha : a + v.length ≤ n) : (m.write a v).good n :=
  ⟨write_wf h.1 a v, write_inside v h.2 ha⟩

theorem ecbLoop_good {m : Memory} {n a k : Nat} (f : Block → Block) (d : Nat) (h : m.good n) (ha : a + 8 * k ≤ n) :
    (loop k (ecbBlock f a d) m).good n :=
  loop_invariant (fun _ m => m.good n) k _ m h fun _ hi _ hy => writeBlock_good hy (by omega) _

theorem cbcEncLoop_good {w : CbcWork} {n a k : Nat} (c : Codec) (d : Nat) (h : w.dmem.good n) (ha : a + 8 * k ≤ n) :
    (loop k (cbcEncBlock c a d) w).dmem.good n :=
  loop_invariant (fun _ (w : CbcWork) => w.dmem.good n) k _ w h fun _ hi _ hy => writeBlock_good hy (by omega) _

theorem cbcDecLoop_good {w : CbcWork} {n a k : Nat} (c : Codec) (d : Nat) (h : w.dmem.good n) (ha : a + 8 * k ≤ n) :
    (loop k (cbcDecBlock c a d) w).dmem.good n :=
  loop_invariant (fun _ (w : CbcWork) => w.dmem.good n) k _ w h fun _ hi _ hy => writeBlock_good hy (by omega) _

theorem ctrLoop_good {m : Memory} {n a len k : Nat} (c : Codec) (iv : Block) (c0 : Counter) (d : Nat) (h : m.good n)
    (ha : a + len ≤ n) (hk : k ≤ ctrBlocks len) : (loop k (ctrBlock c iv c0 a len d) m).good n :=
  loop_invariant (fun _ m => m.good n) k _ m h fun i hi y hy => by
    refine write_good hy _ ?_
    simp only [List.length_zipWith, read_length, ctrBlockLen, ctrBlocks] at hk ⊢
    omega

theorem writeLane_good {m : Memory} {n a j : Nat} (data : Word) (be : BitVec 4) (h : m.good n) (ha : a + j < n) :
    (writeLane a data be j m).good n := by
  unfold writeLane
  split
  · exact ⟨put_wf h.1 _ _, put_inside h.2 ha _⟩
  · exact h

end Sys2Proof.Machine
end

