-- ==== Sys2Proof/Laws/Modes.lean ====
section
/-! SUPPORT. What the loops of the mode controllers leave in data memory: one lemma per loop. -/

namespace Sys2Proof.Machine

/-- A pass that writes the block at `a + 8 k` extends what holds on the blocks before it. -/
theorem holds_extend {m m' : Memory} {a k : Nat} {B : Nat → Block} (b : Block)
    (held : ∀ i < k, m'.holdsBlock (a + 8 * i) (B i)) (hb : b = B k) (out : m.sameOutside m' a (8 * k)) :
    (∀ i < k + 1, (m'.writeBlock (a + 8 * k) b).holdsBlock (a + 8 * i) (B i)) ∧
      m.sameOutside (m'.writeBlock (a + 8 * k) b) a (8 * (k + 1)) := by
  refine ⟨fun i hi => ?_, fun x hx => ?_⟩
  · rcases Nat.lt_succ_iff_lt_or_eq.mp hi with h | rfl
    · exact holds_congr (fun j hj => get?_writeBlock_outside _ _ _ _ (by omega)) (held i h)
    · exact hb ▸ writeBlock_holds _ _ _
  · rw [get?_writeBlock_outside _ _ _ _ (by omega)]
    exact out x (by omega)

/-- A block not yet passed reads as it did at the start. -/
theorem readBlock_ahead {m m' : Memory} {a k : Nat} (out : m.sameOutside m' a (8 * k)) (d : Nat) :
    m'.readBlock (a + 8 * k) d = m.readBlock (a + 8 * k) d :=
  readBlock_congr (fun j _ => out _ (by omega)) d

/-- ECB: after `n` passes every block is `f` of what was read there, and nothing else has changed (41_ecb.md R162). -/
theorem ecbLoop_spec (f : Block → Block) (a d n : Nat) (m : Memory) :
    (∀ i < n, (loop n (ecbBlock f a d) m).holdsBlock (a + 8 * i) (f (m.readBlock (a + 8 * i) (d + 8 * i)))) ∧
      m.sameOutside (loop n (ecbBlock f a d) m) a (8 * n) := by
  refine loop_invariant (fun k m' => (∀ i < k, m'.holdsBlock (a + 8 * i) (f (m.readBlock (a + 8 * i) (d + 8 * i)))) ∧
    m.sameOutside m' a (8 * k)) n _ m ⟨by simp, fun _ _ => rfl⟩ ?_
  rintro k - m' ⟨held, out⟩
  exact holds_extend _ held (by rw [readBlock_ahead out]) out

/-- Ciphertext block `i` of a CBC encryption of the data read at `a` (42_cbc.md R182). -/
def cbcCipher (c : Codec) (m : Memory) (a d : Nat) (iv : Block) : Nat → Block
  | 0 => blockEnc c ((m.readBlock a d).xor iv)
  | i + 1 => blockEnc c ((m.readBlock (a + 8 * (i + 1)) (d + 8 * (i + 1))).xor (cbcCipher c m a d iv i))

/-- The chaining value of block `i`: the IV, then the ciphertext before it (42_cbc.md R182). -/
def cbcPrev (c : Codec) (m : Memory) (a d : Nat) (iv : Block) : Nat → Block
  | 0 => iv
  | i + 1 => cbcCipher c m a d iv i

theorem cbcCipher_eq (c : Codec) (m : Memory) (a d : Nat) (iv : Block) (i : Nat) :
    cbcCipher c m a d iv i = blockEnc c ((m.readBlock (a + 8 * i) (d + 8 * i)).xor (cbcPrev c m a d iv i)) := by
  cases i <;> rfl

/-- CBC encryption: after `n` passes the data holds the chained ciphertext (42_cbc.md R182). -/
theorem cbcEncLoop_spec (c : Codec) (a d n : Nat) (m : Memory) (iv : Block) :
    (∀ i < n, (loop n (cbcEncBlock c a d) { dmem := m, prev := iv }).dmem.holdsBlock (a + 8 * i) (cbcCipher c m a d iv i)) ∧
      m.sameOutside (loop n (cbcEncBlock c a d) { dmem := m, prev := iv }).dmem a (8 * n) ∧
      (loop n (cbcEncBlock c a d) { dmem := m, prev := iv }).prev = cbcPrev c m a d iv n := by
  refine loop_invariant (fun k (w : CbcWork) => (∀ i < k, w.dmem.holdsBlock (a + 8 * i) (cbcCipher c m a d iv i)) ∧
    m.sameOutside w.dmem a (8 * k) ∧ w.prev = cbcPrev c m a d iv k) n _ _ ⟨by simp, fun _ _ => rfl, rfl⟩ ?_
  rintro k - w ⟨held, out, hp⟩
  have new : blockEnc c ((w.dmem.readBlock (a + 8 * k) (d + 8 * k)).xor w.prev) = cbcCipher c m a d iv k := by
    rw [cbcCipher_eq, readBlock_ahead out, hp]
  exact ⟨(holds_extend _ held new out).1, (holds_extend _ held new out).2, new⟩

/-- Ciphertext block `i` as it was before a CBC decryption, the IV before the first (42_cbc.md R183). -/
def cbcSaved (m : Memory) (a d : Nat) (iv : Block) : Nat → Block
  | 0 => iv
  | i + 1 => m.readBlock (a + 8 * i) (d + 8 * i)

/-- CBC decryption: every block is BlockDec of the ciphertext XOR the ciphertext before it (42_cbc.md R183). -/
theorem cbcDecLoop_spec (c : Codec) (a d n : Nat) (m : Memory) (iv : Block) :
    (∀ i < n, (loop n (cbcDecBlock c a d) { dmem := m, prev := iv }).dmem.holdsBlock (a + 8 * i)
        ((blockDec c (m.readBlock (a + 8 * i) (d + 8 * i))).xor (cbcSaved m a d iv i))) ∧
      m.sameOutside (loop n (cbcDecBlock c a d) { dmem := m, prev := iv }).dmem a (8 * n) ∧
      (loop n (cbcDecBlock c a d) { dmem := m, prev := iv }).prev = cbcSaved m a d iv n := by
  refine loop_invariant (fun k (w : CbcWork) => (∀ i < k, w.dmem.holdsBlock (a + 8 * i)
      ((blockDec c (m.readBlock (a + 8 * i) (d + 8 * i))).xor (cbcSaved m a d iv i))) ∧
    m.sameOutside w.dmem a (8 * k) ∧ w.prev = cbcSaved m a d iv k) n _ _ ⟨by simp, fun _ _ => rfl, rfl⟩ ?_
  rintro k - w ⟨held, out, hp⟩
  have new : (blockDec c (w.dmem.readBlock (a + 8 * k) (d + 8 * k))).xor w.prev =
      (blockDec c (m.readBlock (a + 8 * k) (d + 8 * k))).xor (cbcSaved m a d iv k) := by
    rw [readBlock_ahead out, hp]
  exact ⟨(holds_extend _ held new out).1, (holds_extend _ held new out).2, readBlock_ahead out _⟩

theorem byte_of_lt (b : Block) {k : Nat} (h : k < 8) : b.toList[k]? = some (b.byte k) := by
  obtain ⟨v, hv⟩ := toList_getElem?_some b h
  rw [hv, Block.byte, List.getD_eq_getElem?_getD, hv, Option.getD_some]

/-- Keystream byte `j` of a CTR command: byte `j mod 8` of keystream block `j / 8` (43_ctr.md R205). -/
def ctrByte (c : Codec) (iv : Block) (c0 : Counter) (j : Nat) : Byte := (ctrKeystream c iv c0 (j / 8)).byte (j % 8)

/-- CTR: after `k` passes the first bytes of the data are XORed with the keystream (43_ctr.md R204, R205). -/
theorem ctrLoop_spec (c : Codec) (iv : Block) (c0 : Counter) (a len d n : Nat) (m : Memory) :
    (∀ j < min (8 * n) len, (loop n (ctrBlock c iv c0 a len d) m).get? (a + j) =
        some (m.byteAt (a + j) (d + j) ^^^ ctrByte c iv c0 j)) ∧
      m.sameOutside (loop n (ctrBlock c iv c0 a len d) m) a (min (8 * n) len) := by
  refine loop_invariant (fun k m' => (∀ j < min (8 * k) len, m'.get? (a + j) =
      some (m.byteAt (a + j) (d + j) ^^^ ctrByte c iv c0 j)) ∧ m.sameOutside m' a (min (8 * k) len)) n _ m
    ⟨by simp, fun _ _ => rfl⟩ ?_
  rintro k - m' ⟨held, out⟩
  have hl : (List.zipWith (· ^^^ ·) (m'.read (a + 8 * k) (ctrBlockLen len k) (d + 8 * k))
      (ctrKeystream c iv c0 k).toList).length = ctrBlockLen len k := by
    simp [ctrBlockLen]
  have hn : ctrBlockLen len k = min 8 (len - 8 * k) := rfl
  refine ⟨fun j hj => ?_, fun x hx => ?_⟩
  · rw [ctrBlock]
    by_cases h : j < 8 * k
    · rw [get?_write_outside _ _ _ _ (by omega)]
      exact held j (by omega)
    · obtain ⟨i, rfl⟩ : ∃ i, j = 8 * k + i := ⟨j - 8 * k, by omega⟩
      rw [← Nat.add_assoc, get?_write_inside _ _ _ _ (by rw [hl]; omega), List.getElem?_zipWith, read_getElem?,
        if_pos (by omega), byte_of_lt _ (by omega), byteAt_congr (out _ (by omega))]
      have h1 : (8 * k + i) / 8 = k := by omega
      have h2 : (8 * k + i) % 8 = i := by omega
      simp only [ctrByte, h1, h2, Nat.add_assoc]
  · rw [ctrBlock, get?_write_outside _ _ _ _ (by omega)]
    exact out x (by omega)

end Sys2Proof.Machine
end

