-- ==== Sys2Proof/Laws/PerInstr.lean ====
section
/-! SUPPORT. The statements made for every command, one lemma per constructor. -/

namespace Sys2Proof.Laws.CommandWord

/-- The command word has a zero reserved field, an assigned opcode, and lies in 1 to 10 (30_encoding.md R90, R92). -/
def Statement (i : Instr) : Prop :=
  (splitCmd (encode i)).wellFormed = true ∧ 1 ≤ (encode i).toNat ∧ (encode i).toNat ≤ 10

theorem keyset : Statement .keyset := by unfold Statement; decide

theorem encipher : Statement .encipher := by unfold Statement; decide

theorem decipher : Statement .decipher := by unfold Statement; decide

theorem blkEnc : Statement .blkEnc := by unfold Statement; decide

theorem blkDec : Statement .blkDec := by unfold Statement; decide

theorem ecbEnc : Statement .ecbEnc := by unfold Statement; decide

theorem ecbDec : Statement .ecbDec := by unfold Statement; decide

theorem cbcEnc : Statement .cbcEnc := by unfold Statement; decide

theorem cbcDec : Statement .cbcDec := by unfold Statement; decide

theorem ctrCrypt : Statement .ctrCrypt := by unfold Statement; decide

end Sys2Proof.Laws.CommandWord
end

