-- ==== Sys2Proof/Laws/Step.lean ====
section
/-! SUPPORT. The step by the next event, and what it can be. -/

namespace Sys2Proof.Machine

theorem step_cons {s : State} {e : Event} {rest : List Event} (h : s.agenda = e :: rest) :
    step s = eventStep e (s.withAgenda rest) := by
  simp [step, h]

theorem step_nil {s : State} (h : s.agenda = []) : step s = coreStep s := by
  simp [step, h]

theorem coreStep_none {s : State} (h : s.latch = none) : coreStep s = .next s := by
  simp [coreStep, h]

theorem coreStep_some {s : State} {l : Latch} (h : s.latch = some l) : coreStep s = completeWord l.word s := by
  simp [coreStep, h]

/-- The CORE's turn does one of these: nothing, an illegal word, a command. -/
theorem coreStep_cases (s : State) :
    (s.latch = none ∧ coreStep s = .next s) ∨
    (∃ l r, s.latch = some l ∧ decode l.word = .error r ∧ coreStep s = .next (s.complete .error .illegalCmd)) ∨
    (∃ l i, s.latch = some l ∧ decode l.word = .ok i ∧ coreStep s = exec i s) := by
  cases hl : s.latch with
  | none => exact .inl ⟨rfl, coreStep_none hl⟩
  | some l =>
    rw [coreStep_some hl, completeWord]
    cases hd : decode l.word with
    | error r => exact .inr (.inl ⟨l, r, rfl, hd, rfl⟩)
    | ok i => exact .inr (.inr ⟨l, i, rfl, hd, rfl⟩)

/-- A step of a wait is a poll that ends it, a poll that goes on, or the CORE's turn. -/
theorem waitStep_cases (polls : Nat) (s : State) :
    (s.latch = none ∧ waitStep polls s = .next (s.observe (statusWord s))) ∨
    (s.latch.isSome = true ∧ ∃ k, polls = k + 1 ∧
      waitStep polls s = .next ((s.observe (statusWord s)).withAgenda (.wait k :: s.agenda))) ∨
    (s.latch.isSome = true ∧ polls = 0 ∧ waitStep polls s = coreStep (s.withAgenda (.wait 0 :: s.agenda))) := by
  have poll : pollStatus s = s.observe (statusWord s) := hostRead_status s
  cases hl : s.latch with
  | none => exact .inl ⟨rfl, by simp [waitStep, State.busy, hl, poll]⟩
  | some l =>
    cases polls with
    | zero => exact .inr (.inr ⟨rfl, rfl, by simp [waitStep, State.busy, hl]⟩)
    | succ k => exact .inr (.inl ⟨rfl, k, rfl, by simp [waitStep, State.busy, hl, poll]⟩)

/-- A step is one event, or the CORE's turn on an empty agenda. -/
theorem step_cases (s : State) :
    (∃ off v be rest, s.agenda = .write off v be :: rest ∧ step s = .next (hostWrite off v be (s.withAgenda rest))) ∨
    (∃ off rest, s.agenda = .read off :: rest ∧ step s = .next (hostRead off (s.withAgenda rest))) ∨
    (∃ polls rest, s.agenda = .wait polls :: rest ∧ step s = waitStep polls (s.withAgenda rest)) ∨
    (∃ rest, s.agenda = .reset :: rest ∧ step s = .next (resetCore (s.withAgenda rest))) ∨
    (∃ rest, s.agenda = .coreTurn :: rest ∧ step s = coreStep (s.withAgenda rest)) ∨
    (s.agenda = [] ∧ step s = coreStep s) := by
  match h : s.agenda with
  | [] => exact .inr (.inr (.inr (.inr (.inr ⟨rfl, step_nil h⟩))))
  | .write off v be :: rest => exact .inl ⟨off, v, be, rest, rfl, step_cons h⟩
  | .read off :: rest => exact .inr (.inl ⟨off, rest, rfl, step_cons h⟩)
  | .wait polls :: rest => exact .inr (.inr (.inl ⟨polls, rest, rfl, step_cons h⟩))
  | .reset :: rest => exact .inr (.inr (.inr (.inl ⟨rest, rfl, step_cons h⟩)))
  | .coreTurn :: rest => exact .inr (.inr (.inr (.inr (.inl ⟨rest, rfl, step_cons h⟩))))

/-- On a busy core whose CORE is next, the step completes the latched word. -/
theorem step_of_coreNext {s : State} {l : Latch} {rest : List Event} (hl : s.latch = some l)
    (h : coreNext s.agenda rest) : step s = completeWord l.word (s.withAgenda rest) := by
  rcases h with ⟨ha, rfl⟩ | ha | ⟨⟨es, ha⟩, rfl⟩
  · rw [step_nil ha, coreStep_some hl, ← ha]
    rfl
  · rw [step_cons ha]
    exact coreStep_some hl
  · rw [step_cons ha, ha]
    rcases waitStep_cases 0 (s.withAgenda es) with ⟨h, -⟩ | ⟨-, k, h, -⟩ | ⟨-, -, e⟩
    · simp [hl] at h
    · cases h
    · exact e.trans (coreStep_some hl)

/-- Runs one after the other are one run. -/
theorem runSteps_add {m n : Nat} {s t : State} (h : runSteps m s = .next t) : runSteps (m + n) s = runSteps n t := by
  induction m generalizing s with
  | zero => cases h; rw [Nat.zero_add]
  | succ m ih =>
    rw [Nat.succ_add]
    simp only [runSteps] at h ⊢
    split at h
    · exact ih h
    · cases h
    · cases h

end Sys2Proof.Machine
end

