-- ==== Sys2Proof/Tests/Slice0.lean ====
section
/-! SUPPORT. Small tests: decoding, well-formedness, one step of each command, and a witness for every statement that has
hypotheses. Expected values come from the spec: the rules' own examples and 95_test_vectors.md. -/

namespace Sys2Proof.Tests

open Sys2Proof Sys2Proof.Machine

set_option Elab.async false

/-! ## Small states -/

/-- The next state, if there is one. -/
def next? (a : Answer) : Option State :=
  match a with
  | .next t => some t
  | .fault _ => none
  | .refused _ => none

/-- The RW registers with these data and IV operands, the rest 0. -/
def regsOf (addr len ivaddr ivlen : Word) : OperandRegs :=
  { OperandRegs.reset with addr := addr, len := len, ivaddr := ivaddr, ivlen := ivlen }

/-- An idle core with the INIT tables as its cipher state, KEY_VALID = 1, these operands and this memory. -/
def keyedWith (r : OperandRegs) (m : Memory) : State :=
  { State.reset with regs := r, dmem := m, codec := initCodec, status := Status.reset.withKey }

/-- An idle core with the INIT tables as its cipher state and KEY_VALID = 1. -/
def keyed : State := keyedWith OperandRegs.reset []

/-- An idle core without a key, with these operands. -/
def freshWith (r : OperandRegs) : State := { State.reset with regs := r }

/-- Memory with the bytes `v` at `a`, and nothing else. -/
def bytesAt (a : Nat) (v : List Byte) : Memory := Memory.write [] a v

/-- A core with command word `w` accepted. -/
def running (w : Word) : State := accept w State.reset

/-- The bytes at `a`, `n` of them. -/
def peek (s : State) (a n : Nat) : List (Option Byte) := (List.range n).map fun k => s.dmem.get? (a + k)

/-- The STATUS word after a command. -/
def statusAfter (a : Answer) : Option Word := (next? a).map statusWord

/-! ## Decoding: the words of 30_encoding.md R92, bits 31:8 zero and OPC in bits 7:0 -/

theorem test_decode_keyset : decodeTableWord 32 0b00000000_00000000_00000000_00000001 = some .keyset := by decide

theorem test_decode_encipher : decodeTableWord 32 0b00000000_00000000_00000000_00000010 = some .encipher := by decide

theorem test_decode_decipher : decodeTableWord 32 0b00000000_00000000_00000000_00000011 = some .decipher := by decide

theorem test_decode_blkEnc : decodeTableWord 32 0b00000000_00000000_00000000_00000100 = some .blkEnc := by decide

theorem test_decode_blkDec : decodeTableWord 32 0b00000000_00000000_00000000_00000101 = some .blkDec := by decide

theorem test_decode_ecbEnc : decodeTableWord 32 0b00000000_00000000_00000000_00000110 = some .ecbEnc := by decide

theorem test_decode_ecbDec : decodeTableWord 32 0b00000000_00000000_00000000_00000111 = some .ecbDec := by decide

theorem test_decode_cbcEnc : decodeTableWord 32 0b00000000_00000000_00000000_00001000 = some .cbcEnc := by decide

theorem test_decode_cbcDec : decodeTableWord 32 0b00000000_00000000_00000000_00001001 = some .cbcDec := by decide

theorem test_decode_ctrCrypt : decodeTableWord 32 0b00000000_00000000_00000000_00001010 = some .ctrCrypt := by decide

/-- R95: the first opcode past the map, opcode 0, and a set reserved bit. -/
theorem test_decode_rejects :
    decodeTableWord 32 0x0B = none ∧ decodeTableWord 32 0x00 = none ∧ decodeTableWord 32 0x101 = none ∧
      decodeTableWord 32 0x80000001 = none := by decide

/-! ## WellFormed: an ill-formed term for each check -/

theorem test_cmdWord_rsvZero_refuses : CmdWord.rsvZero { opc := 0x01, rsv := 1 } = false := by decide

theorem test_cmdWord_opcAssigned_refuses :
    CmdWord.opcAssigned { opc := 0x00, rsv := 0 } = false ∧ CmdWord.opcAssigned { opc := 0x0B, rsv := 0 } = false := by
  decide

theorem test_cmdWord_wellFormed_refuses :
    CmdWord.wellFormed { opc := 0x01, rsv := 1 } = false ∧ CmdWord.wellFormed { opc := 0x0B, rsv := 0 } = false ∧
      CmdWord.wellFormed { opc := 0x0A, rsv := 0 } = true := by decide

theorem test_hostLine_aligned_refuses :
    HostLine.wellFormed (.dw 2 0) = false ∧ HostLine.wellFormed (.dwb 5 0 0b0010) = false ∧
      HostLine.wellFormed (.drd 7) = false ∧ HostLine.wellFormed (.drd 8) = true := by decide

theorem test_hostLine_inWindow_refuses :
    HostLine.wellFormed (.dw 0x10000 0) = false ∧ HostLine.wellFormed (.dwb 0x10000 0 0b1111) = false ∧
      HostLine.wellFormed (.drd 0x10000) = false ∧ HostLine.wellFormed (.drd 0xFFFC) = true := by decide

theorem test_pseudo_db_refuses :
    Pseudo.wellFormed (.db 0xFFFF [1, 2]) = false ∧ Pseudo.wellFormed (.db 0xFFFF [1]) = true := by decide

theorem test_pseudo_counter_refuses :
    Pseudo.wellFormed (.ctrCrypt 0 8 8 (2 ^ 64)) = false ∧ Pseudo.wellFormed (.ctrEnc 0 8 8 (-(2 ^ 63) - 1)) = false ∧
      Pseudo.wellFormed (.ctrDec 0 8 8 (-1)) = true := by decide

/-! ## The cipher functions under the INIT tables (V6 to V9) -/

/-- V6, two rows. -/
theorem test_roundF :
    roundF initCodec 0x00000000 = 0x2FCFF51E ∧ roundF initCodec 0x01020304 = 0x3CEDFF8C := by decide +kernel

/-- V9: the key words wrap through a key of 9 bytes. -/
theorem test_keyWord :
    (List.range 18).map (keyWord [1, 2, 3, 4, 5, 6, 7, 8, 9]) =
      [0x01020304, 0x05060708, 0x09010203, 0x04050607, 0x08090102, 0x03040506, 0x07080901, 0x02030405, 0x06070809,
       0x01020304, 0x05060708, 0x09010203, 0x04050607, 0x08090102, 0x03040506, 0x07080901, 0x02030405, 0x06070809] := by
  decide +kernel

/-- V10 and V8: the first encipherment of KEYSET with the all-zero key of 8 bytes gives P[0] and P[1]. -/
theorem test_first_keyset_pair :
    let w := (KeyWork.advance { codec := mixKey (List.replicate 8 0) initCodec, l := 0, r := 0 }).storeP 0
    w.codec.subkey 0 = 0x706D9FCC ∧ w.codec.subkey 1 = 0x1792D23A ∧ w.codec.subkey 2 = 0x13198A2E := by decide +kernel

/-! ## One step of each command, on the INIT tables: the pair of V8 and the rules -/

/-- V3 and V16: KEYSET of 8 bytes, at the last place they fit, ends OK and sets KEY_VALID. -/
theorem test_keyset_ok : statusAfter (exec .keyset (freshWith (regsOf 0xFFF8 8 0 0))) = some 0x00000012 := by
  decide +kernel

/-- V16: RANGE, and INVALID_KEY before RANGE. -/
theorem test_keyset_errors :
    statusAfter (exec .keyset (freshWith (regsOf 0xFFF9 8 0 0))) = some 0x00000330 ∧
      statusAfter (exec .keyset (freshWith (regsOf 0xFFF9 449 0 0))) = some 0x00000130 := by decide +kernel

/-- V8, as a command. -/
theorem test_encipher :
    (next? (exec .encipher keyed)).map (fun t => (t.regs.pair, statusWord t)) =
      some ((0x706D9FCC, 0x1792D23A), 0x00000012) := by decide +kernel

/-- V12, the last line: no key. -/
theorem test_encipher_noKey :
    (next? (exec .encipher (freshWith { OperandRegs.reset with xl := 1, xr := 2 }))).map
      (fun t => (t.regs.pair, statusWord t)) = some ((1, 2), 0x00000230) := by decide +kernel

/-- V8, the inverse, as a command. -/
theorem test_decipher :
    (next? (exec .decipher (keyedWith { OperandRegs.reset with xl := 0x706D9FCC, xr := 0x1792D23A } []))).map
      (fun t => (t.regs.pair, statusWord t)) = some ((0, 0), 0x00000012) := by decide +kernel

/-- V8 through R125, big-endian: an unaligned block of zeros, the bytes beside it untouched. -/
theorem test_blkEnc :
    (next? (exec .blkEnc (keyedWith (regsOf 3 0 0 0) (bytesAt 2 [0x55, 0, 0, 0, 0, 0, 0, 0, 0, 0xAA])))).map
      (fun t => peek t 2 10) =
      some [some 0x55, some 0x70, some 0x6D, some 0x9F, some 0xCC, some 0x17, some 0x92, some 0xD2, some 0x3A,
        some 0xAA] := by decide +kernel

/-- V17: the first block that does not fit. -/
theorem test_blkEnc_range : statusAfter (exec .blkEnc (keyedWith (regsOf 0xFFF9 0 0 0) [])) = some 0x00000332 := by
  decide +kernel

/-- V8 through R125, the inverse. -/
theorem test_blkDec :
    (next? (exec .blkDec (keyedWith (regsOf 0xFFF8 0 0 0)
      (bytesAt 0xFFF8 [0x70, 0x6D, 0x9F, 0xCC, 0x17, 0x92, 0xD2, 0x3A])))).map (fun t => peek t 0xFFF8 8) =
      some (List.replicate 8 (some 0)) := by decide +kernel

/-- R162: two equal blocks give two equal blocks (V20's first row, with the block of V8). -/
theorem test_ecbEnc :
    (next? (exec .ecbEnc (keyedWith (regsOf 1 16 0 0) (bytesAt 1 (List.replicate 16 0))))).map (fun t => peek t 1 16) =
      some [some 0x70, some 0x6D, some 0x9F, some 0xCC, some 0x17, some 0x92, some 0xD2, some 0x3A,
        some 0x70, some 0x6D, some 0x9F, some 0xCC, some 0x17, some 0x92, some 0xD2, some 0x3A] := by decide +kernel

/-- V21: LEN = 17 declines before RANGE, LEN = 0 declines, 16 bytes at 0xFFF8 are out of range. -/
theorem test_ecbEnc_outcomes :
    statusAfter (exec .ecbEnc (keyedWith (regsOf 0xFFF8 17 0 0) [])) = some 0x00000022 ∧
      statusAfter (exec .ecbEnc (keyedWith (regsOf 0 0 0 0) [])) = some 0x00000022 ∧
      statusAfter (exec .ecbEnc (keyedWith (regsOf 0xFFF8 16 0 0) [])) = some 0x00000332 := by decide +kernel

/-- R163, with the block of V8. -/
theorem test_ecbDec :
    (next? (exec .ecbDec (keyedWith (regsOf 0 8 0 0)
      (bytesAt 0 [0x70, 0x6D, 0x9F, 0xCC, 0x17, 0x92, 0xD2, 0x3A])))).map (fun t => peek t 0 8) =
      some (List.replicate 8 (some 0)) := by decide +kernel

/-- V26's first block, with the block of V8: the IV is the block itself, so BlockEnc(00 × 8) results; the second block is
the first ciphertext block, so BlockEnc(00 × 8) results again. -/
theorem test_cbcEnc :
    (next? (exec .cbcEnc (keyedWith (regsOf 0 16 0 8)
      (bytesAt 0 [1, 2, 3, 4, 5, 6, 7, 8, 0x70, 0x6D, 0x9F, 0xCC, 0x17, 0x92, 0xD2, 0x3A])))).map
      (fun t => peek t 0 16) =
      some [some 0x70, some 0x6D, some 0x9F, some 0xCC, some 0x17, some 0x92, some 0xD2, some 0x3A,
        some 0x70, some 0x6D, some 0x9F, some 0xCC, some 0x17, some 0x92, some 0xD2, some 0x3A] := by decide +kernel

/-- V27: IVLEN = 9 declines before RANGE; IVADDR = 0xFFF9 is out of range. -/
theorem test_cbcEnc_outcomes :
    statusAfter (exec .cbcEnc (keyedWith (regsOf 0x40 16 0xFFF9 9) [])) = some 0x00000022 ∧
      statusAfter (exec .cbcEnc (keyedWith (regsOf 0x40 16 0xFFF9 8) [])) = some 0x00000332 := by decide +kernel

/-- R183, the inverse of the test of CBC_ENC: the IV 01 .. 08 stands apart. -/
theorem test_cbcDec :
    (next? (exec .cbcDec (keyedWith (regsOf 8 16 0 8)
      (bytesAt 0 [1, 2, 3, 4, 5, 6, 7, 8, 0x70, 0x6D, 0x9F, 0xCC, 0x17, 0x92, 0xD2, 0x3A,
        0x70, 0x6D, 0x9F, 0xCC, 0x17, 0x92, 0xD2, 0x3A])))).map (fun t => peek t 8 16) =
      some [some 1, some 2, some 3, some 4, some 5, some 6, some 7, some 8,
        some 0x70, some 0x6D, some 0x9F, some 0xCC, some 0x17, some 0x92, some 0xD2, some 0x3A] := by decide +kernel

/-- R205 with the block of V8: three data bytes of zero at the end of DMEM take the leading keystream bytes; the counter
advances by one block. -/
theorem test_ctrCrypt :
    (next? (exec .ctrCrypt (keyedWith (regsOf 0xFFFD 3 0 8)
      (bytesAt 0 (List.replicate 8 0) ++ bytesAt 0xFFFD [0, 0, 0])))).map
      (fun t => (peek t 0xFFFD 3, t.regs.counter, statusWord t)) =
      some ([some 0x70, some 0x6D, some 0x9F], 1, 0x00000012) := by decide +kernel

/-- V33: LEN = 0 and IVLEN = 9 decline, and the counter stays. -/
theorem test_ctrCrypt_declines :
    (next? (exec .ctrCrypt (keyedWith ((regsOf 0 0 0x20 8).withCounter 5) []))).map
        (fun t => (t.regs.counter, statusWord t)) = some (5, 0x00000022) ∧
      (next? (exec .ctrCrypt (keyedWith ((regsOf 0 3 0x20 9).withCounter 5) []))).map
        (fun t => (t.regs.counter, statusWord t)) = some (5, 0x00000022) := by decide +kernel

/-- V31: the nonces of counters 1 and 2^63 - 1. -/
theorem test_nonce :
    ((le64bytes 1).xor ⟨0xFE, 0xDC, 0xBA, 0x98, 0x76, 0x54, 0x32, 0x10⟩).toList =
        [0xFF, 0xDC, 0xBA, 0x98, 0x76, 0x54, 0x32, 0x10] ∧
      ((le64bytes 0x7FFFFFFFFFFFFFFF).xor ⟨0xFE, 0xDC, 0xBA, 0x98, 0x76, 0x54, 0x32, 0x10⟩).toList =
        [0x01, 0x23, 0x45, 0x67, 0x89, 0xAB, 0xCD, 0x6F] := by decide +kernel

/-! ## The host window -/

/-- R64: byte lane 1 of a masked write, and no other byte. -/
theorem test_dmem_lane :
    (hostWrite 0x4040 0x0000AB00 0b0010 State.reset).dmem = [(0x101, 0xAB)] := by decide +kernel

/-- R67: a CMD write while BUSY = 1 is dropped and sets OVR; the STATUS write with bit 16 set clears it. -/
theorem test_ovr :
    statusWord (hostWrite 0 0x00000002 0b1111 (running 1)) = 0x00010001 ∧
      statusWord (hostWrite 1 0x00010000 0b1111 (hostWrite 0 0x00000002 0b1111 (running 1))) = 0x00000001 := by
  decide +kernel

/-- R230: acceptance clears RESULT and ERRCODE and sets BUSY. -/
theorem test_accept : statusWord (hostWrite 0 0xFFFFFFFF 0b1111 State.reset) = 0x00000001 := by decide +kernel

/-- R235: an illegal word completes with ILLEGAL_CMD. -/
theorem test_illegal : statusAfter (step (running 0x0B)) = some 0x00000430 := by decide +kernel

/-- A table word runs as the very next step: ENCIPHER right after reset ends with NO_KEY. -/
theorem test_fetchWord : statusAfter (step (State.reset.withFetchWord 32 2)) = some 0x00000230 := by decide +kernel

/-- R98, and P4 B of 95_test_vectors.md: on an idle core a `wait` returns at once, whatever its polls. -/
theorem test_wait_idle :
    (next? (step (State.reset.withAgenda [.wait 5]))).map (fun t => (t.agenda, t.observed)) = some ([], [0]) := by
  decide +kernel

/-- R98: `wait` reads STATUS while BUSY = 1 and once more after the completion: the reads of ENCIPHER without a key. -/
theorem test_wait_busy :
    (next? (runSteps 5 (State.reset.withAgenda (programEvents [{}, { polls := 2 }] (runLines .encipher))))).map
      (fun t => (t.agenda, t.observed)) = some ([], [0x00000230, 0x00000001, 0x00000001]) := by decide +kernel

/-- R99: a negative counter is written as its two's-complement pattern. -/
theorem test_counter_lines :
    (pseudoLines (.ctrCrypt 0 8 16 (-1))).take 6 = [.wr .addr 0, .wr .len 8, .wr .ivaddr 16, .wr .ivlen 8,
      .wr .ctrLo 0xFFFFFFFF, .wr .ctrHi 0xFFFFFFFF] := by decide +kernel

/-! ## Witnesses: states and operands that meet the hypotheses of each statement, at the boundary of each clause -/

/-- 24 written bytes at `a`. -/
def written24 (a : Nat) : Memory := bytesAt a ((List.range 24).map (BitVec.ofNat 8))

/-- Sixteen data bytes at 0, an IV at 16. -/
def modeState : State := keyedWith (regsOf 0 16 16 8) (written24 0)

/-- Sixteen data bytes at the end of DMEM, the IV right before them. -/
def modeStateTop : State := keyedWith (regsOf 0xFFF0 16 0xFFE8 8) (written24 0xFFE8)

/-- Thirteen data bytes at the end of DMEM, the IV at the start. -/
def oddState : State := keyedWith (regsOf 0xFFF3 13 0 8) (written24 0 ++ bytesAt 0xFFF3 (List.replicate 13 7))

/-- The smallest DMEM. -/
def smallReset : State := { State.reset with dmemBytes := 448 }

theorem witness_DecodeAndEncodeAgree : Instr.wellFormed .ctrCrypt = true ∧ decode 0x0000000A = .ok .ctrCrypt := by
  decide +kernel

theorem witness_IllegalWordsEndInIllegalCmd :
    BitVec.extractLsb' 8 24 0x00000101#32 ≠ 0#24 ∧ BitVec.extractLsb' 0 8 0x00000000#32 = 0x00#8 ∧
      0x0A#8 < BitVec.extractLsb' 0 8 0x0000000B#32 := by decide

theorem witness_ExpansionsAreWellFormed :
    Pseudo.wellFormed (.db 0xFFFF [0xAB]) = true ∧
      HostLine.dwb 0xFFFC 0xAB000000 0b1000 ∈ pseudoLines (.db 0xFFFF [0xAB]) ∧
      0xFFFFFFFF#32 ++ 0xFFFFFFFF#32 = BitVec.ofInt 64 (-1) ∧ 0x80000000#32 ++ 0#32 = BitVec.ofInt 64 (-2 ^ 63) ∧
      0xFFFFFFFF#32 ++ 0xFFFFFFFF#32 = BitVec.ofInt 64 (2 ^ 64 - 1) := by decide +kernel

theorem witness_DbWritesItsBytes :
    State.reset.latch = none ∧ Config.dmemBytesAllowed State.reset.dmemBytes = true ∧
      0xFFFE + [1#8, 2].length ≤ State.reset.dmemBytes ∧ smallReset.latch = none ∧
      Config.dmemBytesAllowed smallReset.dmemBytes = true ∧ 447 + [1#8].length ≤ smallReset.dmemBytes := by
  decide +kernel

theorem witness_CommandLinesRunTheCommand :
    keyed.latch = none ∧ 0#32 ++ 1#32 = BitVec.ofInt 64 1 ∧ 0xFFFFFFFF#32 ++ 0xFFFFFFFE#32 = BitVec.ofInt 64 (-2) :=
  ⟨rfl, by decide, by decide⟩

/-- A legal word and an illegal one, each where the CORE is next in one of the three ways. -/
theorem witness_StepRunsTheDecodedCommand :
    (running 1).latch = some ⟨1, OperandRegs.reset⟩ ∧ decode 1 = .ok .keyset ∧
      (running 0x0B).latch = some ⟨0x0B, OperandRegs.reset⟩ ∧ decode 0x0B = .error .opcodeUnassigned ∧
      coreNext (running 1).agenda [] ∧ coreNext ((running 0x0B).withAgenda [.coreTurn, .read 1]).agenda [.read 1] ∧
      coreNext ((running 0x0B).withAgenda [.wait 0]).agenda [.wait 0] :=
  ⟨rfl, by decide +kernel, rfl, by decide +kernel, .inl ⟨rfl, rfl⟩, .inr (.inl rfl), .inr (.inr ⟨⟨_, rfl⟩, rfl⟩)⟩

theorem witness_StepTakesTheNextEvent :
    (State.reset.withAgenda [.write 0 1 0b1111]).agenda = [.write 0 1 0b1111] ∧
      (State.reset.withAgenda [.read 1]).agenda = [.read 1] ∧
      (State.reset.withAgenda [.wait 0]).latch = none ∧ (State.reset.withAgenda [.wait 0]).agenda = [.wait 0] ∧
      ((running 1).withAgenda [.wait 1]).latch.isSome = true ∧
      ((running 1).withAgenda [.wait 1]).agenda = [.wait (0 + 1)] ∧
      (State.reset.withAgenda [.coreTurn]).latch = none ∧ (State.reset.withAgenda [.coreTurn]).agenda = [.coreTurn] ∧
      State.reset.latch = none ∧ State.reset.agenda = [] := ⟨rfl, rfl, rfl, rfl, rfl, rfl, rfl, rfl, rfl, rfl⟩

theorem witness_CompletionIsEventual :
    ((running 1).withAgenda [.write 2 8 0b1111, .wait 3]).latch = some ⟨1, OperandRegs.reset⟩ ∧
      .reset ∉ ((running 1).withAgenda [.write 2 8 0b1111, .wait 3]).agenda := ⟨rfl, by decide⟩

theorem witness_FetchedWordRunsNext : decodeTableWord 32 0x0A = some .ctrCrypt := by decide

theorem witness_OperandRegistersHoldTheirValue :
    keyed.latch = none ∧ (∃ t, exec .encipher keyed = .next t) ∧ (∃ t, exec .keyset keyed = .next t) ∧
      Instr.keyset ≠ .encipher ∧ Instr.keyset ≠ .decipher ∧ Instr.keyset ≠ .ctrCrypt :=
  ⟨rfl, ⟨_, rfl⟩, ⟨_, rfl⟩, by decide, by decide, by decide⟩

theorem witness_StatusWriteClearsOnlyOvr :
    BitVec.getLsbD 0x00010000#32 16 = true ∧ BitVec.getLsbD 0xFFFEFFFF#32 16 = false := by decide

theorem witness_ReservedSpaceIsInert :
    (0x30 ≤ 4 * (12#15).toNat ∧ 4 * (12#15).toNat < 0x10000) ∧
      (0x30 ≤ 4 * (0x3FFF#15).toNat ∧ 4 * (0x3FFF#15).toNat < 0x10000) ∧
      0x10000 + smallReset.dmemBytes ≤ 4 * (0x4070#15).toNat ∧ 0x10000 + smallReset.dmemBytes ≤ 4 * (0x7FFF#15).toNat := by
  decide +kernel

theorem witness_PartialRegisterWritesAreIgnored :
    4 * (0#15).toNat < 0x10000 ∧ 4 * (0x3FFF#15).toNat < 0x10000 ∧ 0b0111#4 ≠ 0b1111#4 ∧ 0b0000#4 ≠ 0b1111#4 := by decide

/-- The first and the last word of the DMEM window. -/
theorem witness_DmemWindowLanes :
    State.reset.latch = none ∧ (4 * (0x4000#15).toNat = 0x10000 + 4 * 0 ∧ 4 * 0 < State.reset.dmemBytes) ∧
      (4 * (0x7FFF#15).toNat = 0x10000 + 4 * 16383 ∧ 4 * 16383 < State.reset.dmemBytes) := by decide +kernel

theorem witness_ExampleLinesEncode :
    smallReset.latch = none ∧ Config.dmemBytesAllowed smallReset.dmemBytes = true := by decide +kernel

theorem witness_IdAndDmemSizeAreConstant : ∃ t, step smallReset = .next t := ⟨_, rfl⟩

/-- Each range of the statement at both of its ends, the RW registers and CMD with a full write. -/
theorem witness_BusyAccesses :
    (running 1).latch.isSome = true ∧ 4 * (0#15).toNat = 0x00 ∧
      (0x08 ≤ 4 * (2#15).toNat ∧ 4 * (2#15).toNat ≤ 0x24) ∧ (0x08 ≤ 4 * (9#15).toNat ∧ 4 * (9#15).toNat ≤ 0x24) ∧
      (0x10000 ≤ 4 * (0x4000#15).toNat ∧ 4 * (0x4000#15).toNat < 0x10000 + (running 1).dmemBytes) ∧
      (0x10000 ≤ 4 * (0x7FFF#15).toNat ∧ 4 * (0x7FFF#15).toNat < 0x10000 + (running 1).dmemBytes) ∧
      4 * (1#15).toNat = 0x04 ∧
      (0x28 ≤ 4 * (10#15).toNat ∧ 4 * (10#15).toNat < 0x10000) ∧
      (0x28 ≤ 4 * (0x3FFF#15).toNat ∧ 4 * (0x3FFF#15).toNat < 0x10000) ∧
      (0x18 ≤ 4 * (6#15).toNat ∧ 4 * (6#15).toNat ≤ 0x24) ∧ (0x18 ≤ 4 * (9#15).toNat ∧ 4 * (9#15).toNat ≤ 0x24) := by
  decide +kernel

theorem witness_BusyAccesses_smallDmem :
    (accept 1 smallReset).latch.isSome = true ∧ 0x10000 + (accept 1 smallReset).dmemBytes ≤ 4 * (0x4070#15).toNat ∧
      4 * (0x406F#15).toNat < 0x10000 + (accept 1 smallReset).dmemBytes := by decide +kernel

theorem witness_HostAndCipherByteOrders :
    State.reset.latch = none ∧ Config.dmemBytesAllowed State.reset.dmemBytes = true ∧ smallReset.latch = none ∧
      Config.dmemBytesAllowed smallReset.dmemBytes = true := by decide +kernel

theorem witness_EqualMemoriesAreEqualData :
    Memory.wf [(3, 1#8), (4, 2)] ∧ ∀ a, Memory.get? [(3, 1#8), (4, 2)] a = Memory.get? (bytesAt 3 [1, 2]) a :=
  ⟨by decide, fun _ => rfl⟩

theorem witness_RoundStep : (1 ≤ 1 ∧ 1 < 17) ∧ (1 ≤ 16 ∧ 16 < 17) := by decide

/-- The halves of a chain of rounds with the subkeys `key 1`, `key 2`, ...: half k and half k + 1. -/
def roundChain (c : Codec) (key : Nat → Nat) (x0 x1 : Word) : Nat → Word × Word
  | 0 => (x0, x1)
  | k + 1 =>
    let y := roundChain c key x0 x1 k
    (y.2, roundStep c y.1 y.2 (key (k + 1)))

theorem witness_EncipherIsSixteenRounds : ∃ x : Nat → Word, x 0 = 2 ∧ x 1 = 1 ^^^ initCodec.P[0] ∧
    ∀ k, 1 ≤ k → k ≤ 16 → x (k + 1) = roundStep initCodec (x (k - 1)) (x k) k := by
  refine ⟨fun k => (roundChain initCodec (fun k => k) 2 (1 ^^^ initCodec.P[0]) k).1, rfl, rfl, fun k h _ => ?_⟩
  obtain ⟨j, rfl⟩ := Nat.exists_eq_add_of_le' h
  rfl

theorem witness_DecipherIsTheMirrorImage : ∃ x : Nat → Word, x 0 = 2 ∧ x 1 = 1 ^^^ initCodec.P[17] ∧
    ∀ k, 1 ≤ k → k ≤ 16 → x (k + 1) = roundStep initCodec (x (k - 1)) (x k) (17 - k) := by
  refine ⟨fun k => (roundChain initCodec (fun k => 17 - k) 2 (1 ^^^ initCodec.P[17]) k).1, rfl, rfl, fun k h _ => ?_⟩
  obtain ⟨j, rfl⟩ := Nat.exists_eq_add_of_le' h
  rfl

theorem witness_KeyWordsWrapThroughTheKey :
    8 ≤ (List.replicate 8 1#8).length ∧ (List.replicate 448 1#8).length ≤ 448 ∧ 8 ≤ (List.replicate 448 1#8).length ∧
      17 < 18 := by decide +kernel

/-- A key, a repetition of it, and a longer key. -/
theorem witness_KeyPrefixProperty :
    (∀ m < 72, [1#8, 2, 3, 4, 5, 6, 7, 8].getD (m % 8) 0 = [1#8, 2, 3, 4, 5, 6, 7, 8, 1, 2, 3, 4, 5, 6, 7, 8].getD (m % 16) 0) ∧
      72 ≤ (List.replicate 73 1#8).length ∧ 0 < [1#8, 2, 3, 4, 5, 6, 7, 8].length := by decide +kernel

theorem witness_KeysetLoadsTheKey :
    (8 ≤ (8#32).toNat ∧ (8#32).toNat ≤ 448 ∧ (0xFFF8#32).toNat + (8#32).toNat ≤ State.reset.dmemBytes) ∧
      (8 ≤ (448#32).toNat ∧ (448#32).toNat ≤ 448 ∧ (0#32).toNat + (448#32).toNat ≤ smallReset.dmemBytes) := by
  decide +kernel

theorem witness_FailedKeysetChangesNothing :
    (7#32).toNat < 8 ∧ 448 < (449#32).toNat ∧ State.reset.dmemBytes < (0xFFF9#32).toNat + (8#32).toNat ∧
      smallReset.dmemBytes < (1#32).toNat + (448#32).toNat := by decide +kernel

theorem witness_KeyLengthBoundsAreInclusive :
    (freshWith (regsOf 0 7 0 0)).regs.len = 7 ∧ (freshWith (regsOf 0 449 0 0)).regs.len = 449 ∧
      (0xFFF8#32).toNat + (8#32).toNat ≤ State.reset.dmemBytes ∧ (0xFE40#32).toNat + (448#32).toNat ≤ State.reset.dmemBytes := by
  decide +kernel

theorem witness_EncipherCommand : keyed.status.keyValid = true := rfl

theorem witness_DecipherCommand : keyed.status.keyValid = true := rfl

theorem witness_EncipherThenDecipherRestores : keyed.status.keyValid = true := rfl

theorem witness_BlockCommandsTransformTheBlock :
    let s := keyedWith (regsOf 0xFFF8 0 0 0) []
    s.status.keyValid = true ∧ s.regs.addr.toNat + 8 ≤ s.dmemBytes := by decide +kernel

theorem witness_EcbTransformsEveryBlock :
    modeStateTop.status.keyValid = true ∧ modeStateTop.regs.len.toNat ≠ 0 ∧ modeStateTop.regs.len.toNat % 8 = 0 ∧
      modeStateTop.regs.addr.toNat + modeStateTop.regs.len.toNat ≤ modeStateTop.dmemBytes := by decide +kernel

theorem witness_EcbInputContract :
    keyed.status.keyValid = true ∧ keyed.regs.len.toNat = 0 ∧ (17#32).toNat % 8 ≠ 0 := by decide +kernel

theorem witness_EcbRoundTrip :
    modeState.status.keyValid = true ∧ modeState.regs.len.toNat ≠ 0 ∧ modeState.regs.len.toNat % 8 = 0 ∧
      modeState.regs.addr.toNat + modeState.regs.len.toNat ≤ modeState.dmemBytes := by decide +kernel

theorem witness_CbcEncChains :
    modeStateTop.status.keyValid = true ∧ modeStateTop.regs.len.toNat ≠ 0 ∧ modeStateTop.regs.len.toNat % 8 = 0 ∧
      modeStateTop.regs.ivlen.toNat = 8 ∧
      modeStateTop.regs.addr.toNat + modeStateTop.regs.len.toNat ≤ modeStateTop.dmemBytes ∧
      modeStateTop.regs.ivaddr.toNat + 8 ≤ modeStateTop.dmemBytes := by decide +kernel

theorem witness_CbcDecChains :
    let s := keyedWith (regsOf 0xFFF8 8 0xFFF8 8) []
    s.status.keyValid = true ∧ s.regs.len.toNat ≠ 0 ∧ s.regs.len.toNat % 8 = 0 ∧ s.regs.ivlen.toNat = 8 ∧
      s.regs.addr.toNat + s.regs.len.toNat ≤ s.dmemBytes ∧ s.regs.ivaddr.toNat + 8 ≤ s.dmemBytes := by decide +kernel

/-- The IV region stands apart, so both commands read the same IV bytes. -/
theorem witness_CbcRoundTrip :
    modeStateTop.status.keyValid = true ∧ modeStateTop.regs.len.toNat ≠ 0 ∧ modeStateTop.regs.len.toNat % 8 = 0 ∧
      modeStateTop.regs.ivlen.toNat = 8 ∧
      modeStateTop.regs.addr.toNat + modeStateTop.regs.len.toNat ≤ modeStateTop.dmemBytes ∧
      modeStateTop.regs.ivaddr.toNat + 8 ≤ modeStateTop.dmemBytes ∧
      (next? (exec .cbcEnc modeStateTop)).map (fun t => t.dmem.readBlock modeStateTop.regs.ivaddr.toNat t.draws) =
        some (modeStateTop.dmem.readBlock modeStateTop.regs.ivaddr.toNat modeStateTop.draws) := by decide +kernel

theorem witness_CtrXorsTheKeystream :
    oddState.status.keyValid = true ∧ oddState.regs.len.toNat ≠ 0 ∧ oddState.regs.ivlen.toNat = 8 ∧
      oddState.regs.addr.toNat + oddState.regs.len.toNat ≤ oddState.dmemBytes ∧
      oddState.regs.ivaddr.toNat + 8 ≤ oddState.dmemBytes := by decide +kernel

/-- One state where CTR_CRYPT ends OK, one where it does not. -/
theorem witness_CounterWriteBack :
    statusAfter (exec .ctrCrypt (keyedWith (regsOf 0 1 8 8) [])) = some 0x00000012 ∧
      statusAfter (exec .ctrCrypt keyed) = some 0x00000022 := by decide +kernel

theorem witness_CtrRoundTrip :
    oddState.status.keyValid = true ∧ oddState.regs.len.toNat ≠ 0 ∧ oddState.regs.ivlen.toNat = 8 ∧
      oddState.regs.addr.toNat + oddState.regs.len.toNat ≤ oddState.dmemBytes ∧
      oddState.regs.ivaddr.toNat + 8 ≤ oddState.dmemBytes ∧
      (next? (exec .ctrCrypt oddState)).map (fun t => t.dmem.readBlock oddState.regs.ivaddr.toNat t.draws) =
        some (oddState.dmem.readBlock oddState.regs.ivaddr.toNat oddState.draws) := by decide +kernel

theorem witness_CtrContinuation :
    oddState.status.keyValid = true ∧ oddState.regs.ivlen.toNat = 8 ∧
      (8#32).toNat ≠ 0 ∧ (8#32).toNat % 8 = 0 ∧ (5#32).toNat ≠ 0 ∧
      oddState.regs.len.toNat = (8#32).toNat + (5#32).toNat ∧
      (0xFFFB#32).toNat = oddState.regs.addr.toNat + (8#32).toNat ∧
      oddState.regs.addr.toNat + oddState.regs.len.toNat ≤ oddState.dmemBytes ∧
      oddState.regs.ivaddr.toNat + 8 ≤ oddState.dmemBytes ∧
      apart oddState.regs.ivaddr.toNat 8 oddState.regs.addr.toNat (8#32).toNat ∧ oddState.dmem.wf ∧
      oddState.dmem.written oddState.regs.addr.toNat oddState.regs.len.toNat ∧
      oddState.dmem.written oddState.regs.ivaddr.toNat 8 := by
  unfold Memory.written apart
  decide +kernel

/-- Sixteen data bytes at 0 whose second block is the IV. -/
def ivInSecondBlock : State := keyedWith (regsOf 0 16 8 8) (written24 0)

/-- The form with the IV region inside D2. -/
theorem witness_CtrContinuation_ivInD2 :
    ivInSecondBlock.status.keyValid = true ∧ ivInSecondBlock.regs.ivlen.toNat = 8 ∧
      (8#32).toNat ≠ 0 ∧ (8#32).toNat % 8 = 0 ∧
      ivInSecondBlock.regs.len.toNat = (8#32).toNat + (8#32).toNat ∧
      (8#32).toNat = ivInSecondBlock.regs.addr.toNat + (8#32).toNat ∧
      ivInSecondBlock.regs.addr.toNat + ivInSecondBlock.regs.len.toNat ≤ ivInSecondBlock.dmemBytes ∧
      ivInSecondBlock.regs.ivaddr.toNat + 8 ≤ ivInSecondBlock.dmemBytes ∧
      apart ivInSecondBlock.regs.ivaddr.toNat 8 ivInSecondBlock.regs.addr.toNat (8#32).toNat ∧
      ivInSecondBlock.dmem.wf ∧
      ivInSecondBlock.dmem.written ivInSecondBlock.regs.addr.toNat ivInSecondBlock.regs.len.toNat ∧
      ivInSecondBlock.dmem.written ivInSecondBlock.regs.ivaddr.toNat 8 := by
  unfold Memory.written apart
  decide +kernel

theorem witness_CmdWriteIsAcceptedWhenIdle : State.reset.latch = none ∧ (running 0x0B).latch.isSome = true := ⟨rfl, rfl⟩

/-- One state for each outcome, and an illegal word. -/
theorem witness_FirstConditionDecidesTheOutcome :
    decode 0x0B = .error .opcodeUnassigned ∧ decode 0x06 = .ok .ecbEnc ∧
      Ends .keyset (freshWith (regsOf 0 7 0 0)) .error .invalidKey ∧ Ends .encipher State.reset .error .noKey ∧
      Ends .ecbEnc keyed .declined .noError ∧ Ends .blkEnc (keyedWith (regsOf 0xFFF9 0 0 0) []) .error .range ∧
      Ends .keyset (freshWith (regsOf 0xFE40 448 0 0)) .ok .noError :=
  ⟨by decide +kernel, by decide +kernel, .invalidKey rfl (by decide +kernel), .noKey rfl rfl,
    .declined rfl rfl (.inl rfl),
    .range (fun h => by cases h) (fun _ => rfl) (fun h => h) (by unfold outOfRange; decide +kernel),
    .ok (fun _ => by decide +kernel) (fun h => by cases h) (fun h => h) (by unfold outOfRange; decide +kernel)⟩

theorem witness_DeclinedAndFailedChangeNothing : ∃ t, completeWord 0x06 keyed = .next t ∧ t.status.result ≠ .ok :=
  ⟨_, rfl, by decide⟩

theorem witness_NoKeyRefusesEveryOtherCommand :
    Instr.ctrCrypt ≠ .keyset ∧ State.reset.status.keyValid = false ∧ ∃ t, exec .keyset State.reset = .next t :=
  ⟨by decide, rfl, _, rfl⟩

theorem witness_CommandsWriteOnlyTheirRegion :
    ∃ t u, exec .encipher keyed = .next t ∧ writtenBytes .encipher keyed = 0 ∧
      exec .ecbEnc modeState = .next u ∧ writtenBytes .ecbEnc modeState = 16 := ⟨_, _, rfl, rfl, rfl, rfl⟩

theorem witness_OnlyKeysetChangesTheCipherState :
    Instr.encipher ≠ .keyset ∧ keyed.status.keyValid = true ∧ ∃ t, exec .encipher keyed = .next t :=
  ⟨by decide, rfl, _, rfl⟩

/-- KEYSET of the eight bytes at 0 changes KEY_VALID; so does reset. -/
theorem witness_StepChangesCipherStateOnlyByKeyset :
    (∃ t, step (accept 1 (freshWith (regsOf 0 8 0 0))) = .next t ∧ t.status.keyValid ≠ false) ∧
      ∃ t, step (keyed.withAgenda [.reset]) = .next t ∧ t.status.keyValid ≠ keyed.status.keyValid :=
  ⟨⟨_, rfl, by decide +kernel⟩, _, rfl, by decide +kernel⟩

theorem witness_ResetFromAnyState : ((running 1).withAgenda [.reset]).agenda = .reset :: [] := rfl

/-- A step that leaves KEY_VALID at 0, and a KEYSET that sets it. -/
theorem witness_UnkeyedCipherStateIsUnobservable :
    (State.reset.status.keyValid = false ∧ ∃ t, step State.reset = .next t ∧ t.status.keyValid = false) ∧
      (accept 1 (freshWith (regsOf 0 8 0 0))).status.keyValid = false ∧
      ∃ t, step (accept 1 (freshWith (regsOf 0 8 0 0))) = .next t ∧ t.status.keyValid = true :=
  ⟨⟨rfl, _, rfl, rfl⟩, rfl, _, rfl, by decide +kernel⟩

/-- A state with a command in flight that meets the invariant, and its step. -/
theorem witness_EveryStepKeepsTheInvariant : Inv (running 2) ∧ ∃ t, step (running 2) = .next t := by
  refine ⟨⟨by decide +kernel, by decide, (fun c h => nomatch h), ?_, by decide +kernel, (fun h => nomatch h),
    (fun h => h.elim (fun e => nomatch e) (fun e => nomatch e)), (fun h => nomatch h)⟩, _, rfl⟩
  rintro l h
  cases h
  exact ⟨rfl, rfl⟩

end Sys2Proof.Tests
end

section
/-! PROOFS. KEYSET's key-length check (00_scope.md R7, 40_codec.md R130, R131). -/

namespace Sys2Proof.Machine

variable {s : State}

theorem exec_keyset (s : State) : exec .keyset s = execKeyset s := rfl

/-- KEYSET with a key of an illegal length ends with INVALID_KEY, wherever the key lies (40_codec.md R131). -/
theorem execKeyset_invalidKey (illegal : s.dataLen < 8 ∨ 448 < s.dataLen) :
    execKeyset s = .next (s.complete .error .invalidKey) := by
  rw [execKeyset, if_pos illegal, raiseError]

/-- KEYSET with a key of a legal length inside DMEM completes (40_codec.md R130). -/
theorem execKeyset_ok (legal : 8 ≤ s.dataLen ∧ s.dataLen ≤ 448) (data : s.dataAddr + s.dataLen ≤ s.dmemBytes) :
    execKeyset s = .next ((((s.withCodec (keySchedule (s.dmem.read s.dataAddr s.dataLen s.draws))).withStatus
      s.status.withKey).usedDraws s.dataLen).complete .ok .noError) := by
  rw [execKeyset, if_neg (by simp only [Config.keyMinBytes, Config.keyMaxBytes]; omega), if_neg (by omega), finish]

/-- Settles O34: 7 and 449 are the lengths next to the legal range of `execKeyset_ok`, 8 and 448 are its ends. -/
theorem keyLengthBoundsAreInclusive : Obligations.KeyLengthBoundsAreInclusive := by
  unfold Obligations.KeyLengthBoundsAreInclusive
  constructor
  · intro s len
    have illegal : s.dataLen < 8 ∨ 448 < s.dataLen := by
      rcases len with h | h <;> simp [State.dataLen, h]
    exact ⟨_, (exec_keyset s).trans (execKeyset_invalidKey illegal), rfl, rfl⟩
  · intro s len data
    have legal : 8 ≤ s.dataLen ∧ s.dataLen ≤ 448 := by
      rcases len with h | h <;> simp [State.dataLen, h]
    exact ⟨_, (exec_keyset s).trans (execKeyset_ok legal data), rfl, rfl⟩

end Sys2Proof.Machine
end

section
/-! PROOFS. The constant registers ID and DMEMSZ, and DMEM_BYTES, which no step changes (10_state.md R31). -/

namespace Sys2Proof.Machine

variable {s t : State}

theorem targetOf_id (n : Nat) : targetOf n 10#15 = .reg .id := rfl

theorem targetOf_dmemsz (n : Nat) : targetOf n 11#15 = .reg .dmemsz := rfl

/-- A register that no command writes reads its value at any time (20_memory.md R67). -/
theorem readReg_of_not_volatile {r : RegName} (stable : volatileReg r = false) (s : State) :
    readReg r s = s.observe (regValue r s) := by
  simp [readReg, stable]

theorem hostRead_of_targetOf_reg {off : BitVec 15} {r : RegName} (target : targetOf s.dmemBytes off = .reg r) :
    hostRead off s = readReg r s := by
  simp [hostRead, target]

/-- A write of a register whose full-width write does nothing is ignored at any byte enables (20_memory.md R68). -/
theorem hostWrite_eq_self_of_writeReg {off : BitVec 15} {r : RegName} {v : Word}
    (target : targetOf s.dmemBytes off = .reg r) (ignored : writeReg r v s = s) (be : BitVec 4) :
    hostWrite off v be s = s := by
  simp [hostWrite, target, ignored]

@[simp] theorem hostWrite_dmemBytes (off : BitVec 15) (v : Word) (be : BitVec 4) (s : State) :
    (hostWrite off v be s).dmemBytes = s.dmemBytes := by
  rcases hostWrite_cases off v be s with e | ⟨-, e⟩ | ⟨-, e⟩ | ⟨-, -, e⟩ | ⟨-, r, -, e⟩ | ⟨-, a, -, e⟩ <;> simp [e]

@[simp] theorem hostRead_dmemBytes (off : BitVec 15) (s : State) : (hostRead off s).dmemBytes = s.dmemBytes := by
  obtain ⟨w, n, e⟩ := hostRead_cases off s
  simp [e]

theorem execKeyset_dmemBytes (h : execKeyset s = .next t) : t.dmemBytes = s.dmemBytes := by
  rcases execKeyset_cases h with ⟨-, rfl⟩ | ⟨-, -, rfl⟩ | ⟨-, -, rfl⟩ <;> simp

theorem pairCommand_dmemBytes {f : Codec → Word × Word → Word × Word} (h : pairCommand f s = .next t) :
    t.dmemBytes = s.dmemBytes := by
  rcases pairCommand_cases h with ⟨-, rfl⟩ | ⟨-, rfl⟩ <;> simp

theorem blockCommand_dmemBytes {f : Codec → Block → Block} (h : blockCommand f s = .next t) :
    t.dmemBytes = s.dmemBytes := by
  rcases blockCommand_cases h with ⟨-, rfl⟩ | ⟨-, -, rfl⟩ | ⟨-, -, rfl⟩ <;> simp

theorem ecbCommand_dmemBytes {f : Codec → Block → Block} (h : ecbCommand f s = .next t) :
    t.dmemBytes = s.dmemBytes := by
  rcases ecbCommand_cases h with ⟨-, rfl⟩ | ⟨-, -, rfl⟩ | ⟨-, -, -, rfl⟩ | ⟨-, -, -, rfl⟩ <;> simp

theorem cbcCommand_dmemBytes {pass : Codec → Nat → Nat → Nat → CbcWork → CbcWork} (h : cbcCommand pass s = .next t) :
    t.dmemBytes = s.dmemBytes := by
  rcases cbcCommand_cases h with ⟨-, rfl⟩ | ⟨-, -, rfl⟩ | ⟨-, -, -, rfl⟩ | ⟨-, -, -, rfl⟩ <;> simp

theorem execCtrCrypt_dmemBytes (h : execCtrCrypt s = .next t) : t.dmemBytes = s.dmemBytes := by
  rcases execCtrCrypt_cases h with ⟨-, rfl⟩ | ⟨-, -, rfl⟩ | ⟨-, -, -, rfl⟩ | ⟨-, -, -, rfl⟩ <;> simp

/-- No command changes DMEM_BYTES: each is one of the shared command shapes. -/
theorem exec_dmemBytes (i : Instr) (h : exec i s = .next t) : t.dmemBytes = s.dmemBytes := by
  cases i with
  | keyset => exact execKeyset_dmemBytes h
  | encipher | decipher => exact pairCommand_dmemBytes h
  | blkEnc | blkDec => exact blockCommand_dmemBytes h
  | ecbEnc | ecbDec => exact ecbCommand_dmemBytes h
  | cbcEnc | cbcDec => exact cbcCommand_dmemBytes h
  | ctrCrypt => exact execCtrCrypt_dmemBytes h

theorem coreStep_dmemBytes (h : coreStep s = .next t) : t.dmemBytes = s.dmemBytes := by
  rcases coreStep_cases s with ⟨-, e⟩ | ⟨l, r, -, -, e⟩ | ⟨l, i, -, -, e⟩ <;> rw [e] at h
  · cases h; rfl
  · cases h; simp
  · exact exec_dmemBytes i h

theorem waitStep_dmemBytes {polls : Nat} (h : waitStep polls s = .next t) : t.dmemBytes = s.dmemBytes := by
  rcases waitStep_cases polls s with ⟨-, e⟩ | ⟨-, k, -, e⟩ | ⟨-, -, e⟩ <;> rw [e] at h
  · cases h; simp
  · cases h; simp
  · simpa using coreStep_dmemBytes h

/-- DMEM_BYTES is a constant of the machine (10_state.md R31). -/
theorem step_dmemBytes (h : step s = .next t) : t.dmemBytes = s.dmemBytes := by
  rcases step_cases s with ⟨off, v, be, rest, -, e⟩ | ⟨off, rest, -, e⟩ | ⟨polls, rest, -, e⟩ | ⟨rest, -, e⟩ |
    ⟨rest, -, e⟩ | ⟨-, e⟩ <;> rw [e] at h
  · cases h; simp
  · cases h; simp
  · simpa using waitStep_dmemBytes h
  · cases h; simp
  · simpa using coreStep_dmemBytes h
  · exact coreStep_dmemBytes h

/-- Settles O15: both offsets are registers that no command and no write changes, and `step_dmemBytes`. -/
theorem idAndDmemSizeAreConstant : Obligations.IdAndDmemSizeAreConstant := by
  unfold Obligations.IdAndDmemSizeAreConstant
  refine ⟨fun s v be => ⟨?_, ?_, ?_, ?_⟩, fun s t => step_dmemBytes⟩
  · exact (hostRead_of_targetOf_reg (targetOf_id _)).trans (readReg_of_not_volatile rfl s)
  · exact (hostRead_of_targetOf_reg (targetOf_dmemsz _)).trans (readReg_of_not_volatile rfl s)
  · exact hostWrite_eq_self_of_writeReg (targetOf_id _) rfl be
  · exact hostWrite_eq_self_of_writeReg (targetOf_dmemsz _) rfl be

end Sys2Proof.Machine
end

section
/-! PROOFS. The register block and reserved space of the host window (20_memory.md R65, R68; 30_encoding.md R97). -/

namespace Sys2Proof.Machine

variable {s : State} {off : BitVec 15}

theorem regOffset_le (r : RegName) : regOffset r ≤ 0x2C := by
  cases r <;> decide

/-- The register block has no register from 0x30 on (30_encoding.md R97). -/
theorem regAt_eq_none {n : Nat} (h : 0x30 ≤ n) : regAt n = none := by
  refine List.find?_eq_none.mpr fun r _ => ?_
  have := regOffset_le r
  simp only [beq_iff_eq]
  omega

/-- The reserved words: past the registers in the register block, and past DMEM in the DMEM window. -/
theorem targetOf_reserved {n : Nat}
    (h : (0x30 ≤ 4 * off.toNat ∧ 4 * off.toNat < 0x10000) ∨ 0x10000 + n ≤ 4 * off.toNat) :
    targetOf n off = .reserved := by
  unfold targetOf byteOffset
  rcases h with ⟨past, block⟩ | window
  · rw [if_pos block, regAt_eq_none past]
  · rw [if_neg (by omega), if_neg (by omega)]

/-- No word of the register block is a word of DMEM (20_memory.md R61). -/
theorem targetOf_ne_dmem {n a : Nat} (block : 4 * off.toNat < 0x10000) : targetOf n off ≠ .dmem a := by
  unfold targetOf byteOffset
  rw [if_pos block]
  split <;> nofun

theorem hostRead_of_targetOf_reserved (target : targetOf s.dmemBytes off = .reserved) :
    hostRead off s = s.observe 0 := by
  simp [hostRead, target]

theorem hostWrite_of_targetOf_reserved (target : targetOf s.dmemBytes off = .reserved) (v : Word) (be : BitVec 4) :
    hostWrite off v be s = s := by
  simp [hostWrite, target]

theorem hostWrite_of_targetOf_reg {r : RegName} {be : BitVec 4} (target : targetOf s.dmemBytes off = .reg r)
    (v : Word) : hostWrite off v be s = if be = 0b1111#4 then writeReg r v s else s := by
  simp [hostWrite, target]

/-- The reserved bits of STATUS read 0 (10_state.md R24): the mask is 1 on the reserved fields and 0 on the others. -/
theorem statusWord_reserved (s : State) : statusWord s &&& 0xFFFEF0CC#32 = 0#32 := by
  have fields (ovr keyValid busy : BitVec 1) (errcode : BitVec 4) (result : BitVec 2) :
      (0#15 ++ ovr ++ 0#4 ++ errcode ++ 0#2 ++ result ++ 0#2 ++ keyValid ++ busy) &&&
        (0x7FFF#15 ++ 0#1 ++ 0xF#4 ++ 0#4 ++ 3#2 ++ 0#2 ++ 3#2 ++ 0#1 ++ 0#1) = 0#32 := by
    simp only [BitVec.and_append, BitVec.zero_and, BitVec.and_zero]
    rfl
  exact fields _ _ _ _ _

/-- Settles O16: the reserved words are those of `targetOf_reserved`; ID, DMEMSZ and CMD are registers. -/
theorem reservedSpaceIsInert : Obligations.ReservedSpaceIsInert := by
  unfold Obligations.ReservedSpaceIsInert
  refine ⟨fun s off v be reserved => ?_, fun s => ⟨hostRead_status s, statusWord_reserved s⟩,
    fun s v be => ⟨?_, ?_⟩, fun s => ?_⟩
  · have target : targetOf s.dmemBytes off = .reserved := targetOf_reserved reserved
    exact ⟨hostRead_of_targetOf_reserved target, hostWrite_of_targetOf_reserved target v be⟩
  · exact hostWrite_eq_self_of_writeReg (targetOf_id _) rfl be
  · exact hostWrite_eq_self_of_writeReg (targetOf_dmemsz _) rfl be
  · have target : targetOf s.dmemBytes 0#15 = .reg .cmd := rfl
    exact (hostRead_of_targetOf_reg target).trans (readReg_of_not_volatile rfl s)

/-- Settles O17: a word of the register block is a register, whose write looks at the byte enables, or reserved. -/
theorem partialRegisterWritesAreIgnored : Obligations.PartialRegisterWritesAreIgnored := by
  unfold Obligations.PartialRegisterWritesAreIgnored
  intro s off v be block notFull
  cases target : targetOf s.dmemBytes off with
  | reg r => rw [hostWrite_of_targetOf_reg target, if_neg notFull]
  | dmem a => exact absurd target (targetOf_ne_dmem block)
  | reserved => exact hostWrite_of_targetOf_reserved target v be

end Sys2Proof.Machine
end

section
/-! PROOFS. The byte lanes of the DMEM window and the two byte orders (20_memory.md R64, R70). -/

namespace Sys2Proof.Machine

variable {s : State} {off : BitVec 15} {a : Nat}

/-- The word at 4k of DMEM is the word at 0x10000 + 4k of the window (20_memory.md R61, R64). -/
theorem targetOf_dmemWordAt {n k : Nat} (place : 4 * off.toNat = 0x10000 + 4 * k) (inside : 4 * k < n) :
    targetOf n off = .dmem (4 * k) := by
  rw [targetOf_dmemWord n off (by omega), place, Nat.add_sub_cancel_left]

/-- The first two words of the window are in DMEM, whatever its size (00_scope.md R6). -/
theorem targetOf_firstWords {n : Nat} (size : Config.dmemBytesAllowed n = true) :
    targetOf n 0x4000#15 = .dmem 0 ∧ targetOf n 0x4001#15 = .dmem 4 := by
  have : 448 ≤ n := by simp_all [Config.dmemBytesAllowed]
  exact ⟨targetOf_dmemWordAt (k := 0) (by decide) (by omega), targetOf_dmemWordAt (k := 1) (by decide) (by omega)⟩

theorem hostWrite_of_targetOf_dmem (idle : s.latch = none) (target : targetOf s.dmemBytes off = .dmem a)
    (v : Word) (be : BitVec 4) : hostWrite off v be s = s.withDmem (loop 4 (writeLane a v be) s.dmem) := by
  simp [hostWrite, target, writeDmemWord, idle]

/-- `MemRead(a, 4)` as the word of the host's byte lanes, byte `k` with draw number `d + k` (20_memory.md R64). -/
def Memory.readLanes (m : Memory) (a d : Nat) : Word :=
  le32 (m.byteAt (a + 0) (d + 0)) (m.byteAt (a + 1) (d + 1)) (m.byteAt (a + 2) (d + 2)) (m.byteAt (a + 3) (d + 3))

theorem hostRead_of_targetOf_dmem (idle : s.latch = none) (target : targetOf s.dmemBytes off = .dmem a) :
    hostRead off s = (s.observe (s.dmem.readLanes a s.draws)).usedDraws 4 := by
  simp [hostRead, target, readDmemWord, idle, Memory.readLanes]

@[simp] theorem le32_lanes (b0 b1 b2 b3 : Byte) :
    (le32 b0 b1 b2 b3).extractLsb' 0 8 = b0 ∧ (le32 b0 b1 b2 b3).extractLsb' 8 8 = b1 ∧
      (le32 b0 b1 b2 b3).extractLsb' 16 8 = b2 ∧ (le32 b0 b1 b2 b3).extractLsb' 24 8 = b3 := by
  unfold le32 be32
  refine ⟨?_, ?_, ?_, ?_⟩ <;> ext i hi <;> simp <;> grind

/-- Lane `j` of a word read is byte `j` of DMEM (20_memory.md R64). -/
theorem readLanes_lane (m : Memory) (a d : Nat) {j : Nat} (hj : j < 4) :
    (m.readLanes a d).extractLsb' (8 * j) 8 = m.byteAt (a + j) (d + j) := by
  match j with
  | 0 | 1 | 2 | 3 => simp [Memory.readLanes]

/-- Settles O18: `writeLanes_spec` for the write, `readLanes_lane` for the read. -/
theorem dmemWindowLanes : Obligations.DmemWindowLanes := by
  unfold Obligations.DmemWindowLanes
  intro s k off idle place inside
  have target : targetOf s.dmemBytes off = .dmem (4 * k) := targetOf_dmemWordAt place inside
  constructor
  · intro v be
    exact ⟨_, hostWrite_of_targetOf_dmem idle target v be, writeLanes_spec s.dmem (4 * k) v be 4⟩
  · exact ⟨_, hostRead_of_targetOf_dmem idle target, fun j hj => readLanes_lane _ _ _ hj⟩

/-- A full-width write of a DMEM word is the write of its four bytes, least significant first (20_memory.md R64). -/
theorem hostWrite_le32 (idle : s.latch = none) (target : targetOf s.dmemBytes off = .dmem a) (b0 b1 b2 b3 : Byte) :
    hostWrite off (le32 b0 b1 b2 b3) 0b1111#4 s = s.withDmem (s.dmem.write a [b0, b1, b2, b3]) := by
  rw [hostWrite_of_targetOf_dmem idle target]
  simp [loop_succ, writeLane, Memory.write]

/-- Two full-width writes of neighbouring words place a block (20_memory.md R70). -/
theorem hostWrite_block (idle : s.latch = none) {off' : BitVec 15} (lower : targetOf s.dmemBytes off = .dmem a)
    (upper : targetOf s.dmemBytes off' = .dmem (a + 4)) (b : Block) :
    hostWrite off' (le32 b.b4 b.b5 b.b6 b.b7) 0b1111#4 (hostWrite off (le32 b.b0 b.b1 b.b2 b.b3) 0b1111#4 s) =
      s.withDmem (s.dmem.writeBlock a b) := by
  rw [hostWrite_le32 idle lower, hostWrite_le32 (s := s.withDmem (s.dmem.write a _)) idle upper]
  rfl

theorem byteAt_write_inside (m : Memory) (a d : Nat) {v : List Byte} {k : Nat} (h : k < v.length) :
    (m.write a v).byteAt (a + k) d = v[k] :=
  byteAt_of_some (by rw [get?_write_inside m a k v h, List.getElem?_eq_getElem h]) d

/-- Four written bytes as the host reads them, least significant first (20_memory.md R70). -/
theorem readLanes_write (m : Memory) (a d : Nat) (b0 b1 b2 b3 : Byte) :
    (m.write a [b0, b1, b2, b3]).readLanes a d = le32 b0 b1 b2 b3 := by
  have byte (k : Nat) (h : k < 4) := byteAt_write_inside m a (d + k) (v := [b0, b1, b2, b3]) h
  rw [Memory.readLanes, byte 0 (by decide), byte 1 (by decide), byte 2 (by decide), byte 3 (by decide)]
  rfl

/-- Four written bytes as a block operation takes them, most significant first (20_memory.md R70). -/
theorem unpack_readBlock_write (m : Memory) (a d : Nat) (b0 b1 b2 b3 : Byte) :
    (unpack ((m.write a [b0, b1, b2, b3]).readBlock a d)).1 = be32 b0 b1 b2 b3 := by
  have byte (k : Nat) (h : k < 4) := byteAt_write_inside m a (d + k) (v := [b0, b1, b2, b3]) h
  rw [unpack, Memory.readBlock, Block.ofFn, byte 0 (by decide), byte 1 (by decide), byte 2 (by decide),
    byte 3 (by decide)]
  rfl

/-- Settles O21: a host word is `le32` of its bytes and a cipher half-word `be32` of the same bytes. -/
theorem hostAndCipherByteOrders : Obligations.HostAndCipherByteOrders := by
  unfold Obligations.HostAndCipherByteOrders
  constructor
  · intro s b d idle size t
    obtain ⟨lower, upper⟩ := targetOf_firstWords size
    have placed : t = s.withDmem (s.dmem.writeBlock 0 b) := hostWrite_block idle lower upper b
    have held : t.dmem.holdsBlock 0 b := by
      rw [placed]
      exact writeBlock_holds s.dmem 0 b
    exact ⟨held, by rw [readBlock_of_holds held]; rfl⟩
  · intro s d idle size t
    obtain ⟨lower, -⟩ := targetOf_firstWords size
    have placed : t = s.withDmem (s.dmem.write 0 [0x01, 0x23, 0x45, 0x67]) :=
      -- the literal of the statement is `le32 0x01 0x23 0x45 0x67`
      hostWrite_le32 idle lower 0x01 0x23 0x45 0x67
    have byte (k : Nat) (h : k < 4) := get?_write_inside s.dmem 0 k [0x01, 0x23, 0x45, 0x67] h
    rw [placed]
    refine ⟨⟨byte 0 (by decide), byte 1 (by decide), byte 2 (by decide), byte 3 (by decide)⟩,
      unpack_readBlock_write s.dmem 0 d _ _ _ _, ?_⟩
    rw [hostRead_of_targetOf_dmem (s := s.withDmem (s.dmem.write 0 _)) idle lower, withDmem_dmem, readLanes_write]
    rfl

end Sys2Proof.Machine
end

section
/-! PROOFS. The decoder, the completion of a word that is no command, and the example host-program lines
(30_encoding.md R91, R92, R95, R100). -/

namespace Sys2Proof

/-- The opcode map lists only opcodes from 0x01 to 0x0A (30_encoding.md R92). -/
theorem opcodeTable_bounds : ∀ p ∈ opcodeTable, 0x01#8 ≤ p.1 ∧ p.1 ≤ 0x0A#8 := by decide

/-- Opcode 0x00 and the opcodes above 0x0A are unassigned (30_encoding.md R92, R95). -/
theorem opcodeTable_lookup_eq_none {opc : BitVec 8} (unassigned : opc = 0x00#8 ∨ 0x0A#8 < opc) :
    opcodeTable.lookup opc = none := by
  refine List.lookup_eq_none_iff.mpr fun p hp => ?_
  have bounds := opcodeTable_bounds p hp
  have ne : opc ≠ p.1 := by
    rintro rfl
    bv_omega
  simpa using ne

theorem decode_of_reservedBits {w : Word} (h : w.extractLsb' 8 24 ≠ 0#24) : decode w = .error .reservedBitsSet :=
  if_pos h

theorem decode_of_unassigned {w : Word} (zero : w.extractLsb' 8 24 = 0#24)
    (unassigned : w.extractLsb' 0 8 = 0x00#8 ∨ 0x0A#8 < w.extractLsb' 0 8) :
    decode w = .error .opcodeUnassigned := by
  have rsv : (splitCmd w).rsv = 0 := zero
  have absent : opcodeTable.lookup (splitCmd w).opc = none := opcodeTable_lookup_eq_none unassigned
  rw [decode, if_neg (not_not_intro rsv), absent]

/-- A word whose reserved field is set or whose opcode is unassigned decodes to no command (30_encoding.md R91, R95). -/
theorem decode_of_illegal {w : Word}
    (illegal : w.extractLsb' 8 24 ≠ 0#24 ∨ w.extractLsb' 0 8 = 0x00#8 ∨ 0x0A#8 < w.extractLsb' 0 8) :
    ∃ r, decode w = .error r := by
  by_cases zero : w.extractLsb' 8 24 = 0#24
  · exact ⟨_, decode_of_unassigned zero (illegal.resolve_left (not_not_intro zero))⟩
  · exact ⟨_, decode_of_reservedBits zero⟩

/-- Decoding takes the command word of every command back to it (30_encoding.md R91, R92). -/
@[simp] theorem decode_encode (i : Instr) : decode (encode i) = .ok i := by
  cases i <;> rfl

/-- Settles O1: the ten words are the encodings of the ten commands, so `decode_encode` says what they decode to. -/
theorem opcodeMapDecodes : Obligations.OpcodeMapDecodes := by
  unfold Obligations.OpcodeMapDecodes
  exact ⟨decode_encode .keyset, decode_encode .encipher, decode_encode .decipher, decode_encode .blkEnc,
    decode_encode .blkDec, decode_encode .ecbEnc, decode_encode .ecbDec, decode_encode .cbcEnc,
    decode_encode .cbcDec, decode_encode .ctrCrypt⟩

end Sys2Proof

namespace Sys2Proof.Machine

variable {s : State}

/-- The completion of a word that decodes to no command is Error(ILLEGAL_CMD) (60_exceptions.md R235). -/
theorem completeWord_of_error {w : Word} {r : DecodeReject} (h : decode w = .error r) (s : State) :
    completeWord w s = .next (s.complete .error .illegalCmd) := by
  rw [completeWord, h, raiseError]

/-- Settles O3: `decode_of_illegal`, and the completion with an error writes RESULT, ERRCODE and the latch alone. -/
theorem illegalWordsEndInIllegalCmd : Obligations.IllegalWordsEndInIllegalCmd := by
  unfold Obligations.IllegalWordsEndInIllegalCmd
  intro w s illegal
  obtain ⟨r, rejected⟩ := decode_of_illegal illegal
  exact completeWord_of_error rejected s

/-- A full-width write of a DMEM word holds its bytes there, least significant first (20_memory.md R64). -/
theorem get?_hostWrite_le32 {off : BitVec 15} {a k : Nat} (idle : s.latch = none)
    (target : targetOf s.dmemBytes off = .dmem a) (b0 b1 b2 b3 : Byte) (h : k < 4) :
    (hostWrite off (le32 b0 b1 b2 b3) 0b1111#4 s).dmem.get? (a + k) = [b0, b1, b2, b3][k]? := by
  rw [hostWrite_le32 idle target, withDmem_dmem, get?_write_inside s.dmem a k [b0, b1, b2, b3] h]

/-- Settles O4: the lines by evaluation, the effect of the `dw` line by `get?_hostWrite_le32`. -/
theorem exampleLinesEncode : Obligations.ExampleLinesEncode := by
  unfold Obligations.ExampleLinesEncode
  refine ⟨fun _ => rfl, fun _ => rfl, fun _ => rfl, fun _ => rfl, rfl, fun s idle size => ?_⟩
  have large : 448 ≤ s.dmemBytes := by simp_all [Config.dmemBytesAllowed]
  have target : targetOf s.dmemBytes 0x4040#15 = .dmem 0x100 :=
    targetOf_dmemWordAt (k := 0x40) (by decide) (by omega)
  -- the literal of the statement is `le32 0x01 0x23 0x45 0x67`
  have byte (k : Nat) (h : k < 4) := get?_hostWrite_le32 idle target 0x01 0x23 0x45 0x67 h
  exact ⟨byte 0 (by decide), byte 1 (by decide), byte 2 (by decide), byte 3 (by decide)⟩

end Sys2Proof.Machine
end

section
/-! PROOFS. The round function and the round step (40_codec.md R121, R122). -/

namespace Sys2Proof.Machine

/-- The first word of each INIT S-box, combined (40_codec.md R121). -/
theorem roundF_initCodec_zero : roundF initCodec 0#32 = 0x2FCFF51E#32 := by decide +kernel

/-- Settles O24: the equation of `roundF`, its boxes and bytes at their places, and `roundF_initCodec_zero`. -/
theorem roundFunction : Obligations.RoundFunction := by
  unfold Obligations.RoundFunction
  exact ⟨fun _ _ => rfl, roundF_initCodec_zero⟩

/-- Subkey `i` is entry `i` of the P-array (40_codec.md R122). -/
theorem subkey_eq_getElem (c : Codec) {i : Nat} (h : i < 18) : c.subkey i = c.P[i] := by
  simp [Codec.subkey, Vector.getD, h]

theorem initCodec_subkey_one : initCodec.subkey 1 = 0x85A308D3#32 := rfl

/-- Settles O25: `roundStep_eq` with the subkey read from P. (`roundStep` is the model's own function.) -/
theorem roundStep_spec : Obligations.RoundStep := by
  unfold Obligations.RoundStep
  constructor
  · intro c a b k h _
    rw [roundStep_eq, subkey_eq_getElem c (by omega)]
  · rw [roundStep_eq, roundF_initCodec_zero, initCodec_subkey_one]
    rfl

end Sys2Proof.Machine
end

section
/-! PROOFS. Encipher and Decipher undo each other (40_codec.md R126). -/

namespace Sys2Proof.Machine

/-- A loop that undoes the passes of another one, last pass first. The two meet in states related by `e`. -/
theorem loop_undo {σ τ : Type} (e : σ → τ) (n : Nat) (f : Nat → σ → σ) (g : Nat → τ → τ) (x : σ)
    (undo : ∀ k < n, ∀ y, g (n - 1 - k) (e (f k y)) = e y) : loop n g (e (loop n f x)) = e x := by
  induction n generalizing g with
  | zero => rfl
  | succ n ih =>
    have first : g 0 (e (f n (loop n f x))) = e (loop n f x) := by simpa using undo n n.lt_succ_self (loop n f x)
    rw [Nat.add_comm, loop_add, Nat.add_comm, loop_succ, loop_succ, loop_zero, first]
    refine ih (fun i => g (1 + i)) fun k hk y => ?_
    have index : 1 + (n - 1 - k) = n + 1 - 1 - k := by omega
    rw [index]
    exact undo k (by omega) y

/-- Decipher's pass `7 - m` reads the subkeys of Encipher's pass `m` in the other order (40_codec.md R126). -/
theorem decipherPair_encipherPair (c : Codec) {m : Nat} (h : m < 8) (x : Word × Word) :
    decipherPair c (8 - 1 - m) (encipherPair c m x).swap = x.swap := by
  obtain ⟨l, r⟩ := x
  have last : 16 - 2 * (8 - 1 - m) = 2 * m + 2 := by omega
  simp [encipherPair_eq, decipherPair_eq, last]

theorem encipherPair_decipherPair (c : Codec) {m : Nat} (h : m < 8) (x : Word × Word) :
    encipherPair c (8 - 1 - m) (decipherPair c m x).swap = x.swap := by
  obtain ⟨l, r⟩ := x
  have last : 2 * (8 - 1 - m) + 2 = 16 - 2 * m := by omega
  have first : 2 * (8 - 1 - m) + 1 = 16 - 2 * m - 1 := by omega
  simp [encipherPair_eq, decipherPair_eq, last, first]

/-- Encipher: the whitened pair through the passes, swapped and whitened (40_codec.md R123). -/
theorem encipher_eq (c : Codec) (x : Word × Word) :
    encipher c x = ((loop 8 (encipherPair c) (x.1 ^^^ c.subkey 0, x.2)).swap.1 ^^^ c.subkey 17,
      (loop 8 (encipherPair c) (x.1 ^^^ c.subkey 0, x.2)).swap.2) := rfl

theorem decipher_eq (c : Codec) (x : Word × Word) :
    decipher c x = ((loop 8 (decipherPair c) (x.1 ^^^ c.subkey 17, x.2)).swap.1 ^^^ c.subkey 0,
      (loop 8 (decipherPair c) (x.1 ^^^ c.subkey 17, x.2)).swap.2) := rfl

@[simp] theorem decipher_encipher (c : Codec) (x : Word × Word) : decipher c (encipher c x) = x := by
  have passes := loop_undo Prod.swap 8 (encipherPair c) (decipherPair c) (x.1 ^^^ c.subkey 0, x.2)
    fun m h y => decipherPair_encipherPair c h y
  rw [decipher_eq, encipher_eq c x]
  simp only [xor_key_key, Prod.mk.eta]
  simp [passes]

@[simp] theorem encipher_decipher (c : Codec) (x : Word × Word) : encipher c (decipher c x) = x := by
  have passes := loop_undo Prod.swap 8 (decipherPair c) (encipherPair c) (x.1 ^^^ c.subkey 17, x.2)
    fun m h y => encipherPair_decipherPair c h y
  rw [encipher_eq, decipher_eq c x]
  simp only [xor_key_key, Prod.mk.eta]
  simp [passes]

@[simp] theorem blockDec_blockEnc (c : Codec) (b : Block) : blockDec c (blockEnc c b) = b := by
  simp [blockDec, blockEnc]

@[simp] theorem blockEnc_blockDec (c : Codec) (b : Block) : blockEnc c (blockDec c b) = b := by
  simp [blockDec, blockEnc]

/-- Settles O28: the two laws on pairs by `loop_undo`, the two on blocks from them by `unpack_pack`. -/
theorem decipherInvertsEncipher : Obligations.DecipherInvertsEncipher := by
  unfold Obligations.DecipherInvertsEncipher
  exact fun c x b => ⟨decipher_encipher c x, encipher_decipher c x, blockDec_blockEnc c b, blockEnc_blockDec c b⟩

end Sys2Proof.Machine
end

section
/-! PROOFS. The key words, and what of the key the schedule depends on (40_codec.md R127, R132). -/

namespace Sys2Proof.Machine

theorem keyByte_eq (key : List Byte) (m : Nat) : keyByte key m = key.getD (m % key.length) 0 := rfl

/-- Four bytes appended one after another, each dropping the highest byte of the word (40_codec.md R127). -/
theorem be32_of_appends (w : Word) (b0 b1 b2 b3 : Byte) :
    (((w.extractLsb' 0 24 ++ b0).extractLsb' 0 24 ++ b1).extractLsb' 0 24 ++ b2).extractLsb' 0 24 ++ b3 =
      be32 b0 b1 b2 b3 := by
  unfold be32
  ext i hi
  simp only [BitVec.getElem_append, BitVec.getElem_extractLsb', BitVec.getLsbD_append, BitVec.getLsbD_extractLsb',
    Nat.zero_add]
  grind

/-- One word of the pseudocode, from the running index of word `i` to that of the next (40_codec.md R127). -/
theorem keyWordsFrom_succ (key : List Byte) (n i : Nat) :
    keyWordsFrom key (n + 1) (4 * i % key.length) =
      keyWord key i :: keyWordsFrom key n (4 * (i + 1) % key.length) := by
  simp only [keyWordsFrom, be32_of_appends, Nat.mod_add_mod, keyWord, keyByte_eq, Nat.mul_succ, Nat.add_assoc,
    Nat.reduceAdd]

theorem keyWordsFrom_eq_map (key : List Byte) (n i : Nat) :
    keyWordsFrom key n (4 * i % key.length) = (List.range' i n).map (keyWord key) := by
  induction n generalizing i with
  | zero => rfl
  | succ n ih => rw [keyWordsFrom_succ, ih, List.range'_succ, List.map_cons]

/-- Settles O29: the pseudocode's words are `keyWordsFrom_eq_map` from word 0 on. -/
theorem keyWordsWrapThroughTheKey : Obligations.KeyWordsWrapThroughTheKey := by
  unfold Obligations.KeyWordsWrapThroughTheKey
  refine ⟨fun key i _ _ hi => ⟨?_, rfl⟩, by decide⟩
  have words : keyWordsFrom key 18 0 = (List.range' 0 18).map (keyWord key) := by
    simpa using keyWordsFrom_eq_map key 18 0
  simp [words, hi]

theorem keySchedule_eq (key : List Byte) : keySchedule key = (rederive (mixKey key initCodec)).codec := by
  unfold keySchedule
  rfl

/-- The 18 key words take their bytes from the first 72 of the repeated key (40_codec.md R132). -/
theorem keySchedule_congr {k k' : List Byte} (h : ∀ m < 72, keyByte k m = keyByte k' m) :
    keySchedule k = keySchedule k' := by
  have words : ∀ i < 18, keyWord k i = keyWord k' i := fun i hi => by
    simp only [keyWord, h _ (show 4 * i < 72 by omega), h _ (show 4 * i + 1 < 72 by omega),
      h _ (show 4 * i + 2 < 72 by omega), h _ (show 4 * i + 3 < 72 by omega)]
  rw [keySchedule_eq, keySchedule_eq, mixKey_congr initCodec words]

theorem keyByte_take (k : List Byte) {n m : Nat} (long : n ≤ k.length) (hm : m < n) :
    keyByte (k.take n) m = keyByte k m := by
  rw [keyByte_eq, keyByte_eq, List.length_take_of_le long, Nat.mod_eq_of_lt hm, Nat.mod_eq_of_lt (by omega)]
  simp [List.getD, hm]

theorem getElem?_flatten_replicate {α : Type} (k : List α) {n i : Nat} (h : i < n * k.length) :
    (List.replicate n k).flatten[i]? = k[i % k.length]? := by
  induction n generalizing i with
  | zero => omega
  | succ n ih =>
    rw [List.replicate_succ, List.flatten_cons, List.getElem?_append]
    split
    case isTrue inside => rw [Nat.mod_eq_of_lt inside]
    case isFalse past =>
      rw [ih (by rw [Nat.succ_mul] at h; omega), Nat.mod_eq_sub_mod (a := i) (by omega)]

theorem keyByte_flatten_replicate (k : List Byte) (n m : Nat) (nonempty : 0 < k.length) :
    keyByte (List.replicate (n + 1) k).flatten m = keyByte k m := by
  have len : (List.replicate (n + 1) k).flatten.length = (n + 1) * k.length := by simp
  have inside : m % ((n + 1) * k.length) < (n + 1) * k.length := Nat.mod_lt _ (by positivity)
  rw [keyByte_eq, keyByte_eq, len, List.getD, getElem?_flatten_replicate k inside, Nat.mod_mul_left_mod, List.getD]

/-- Settles O31: the longer and the repeated key have the key bytes that `keySchedule_congr` asks for. -/
theorem keyPrefixProperty : Obligations.KeyPrefixProperty := by
  unfold Obligations.KeyPrefixProperty
  exact ⟨fun k k' h => keySchedule_congr h,
    fun k long => keySchedule_congr fun m hm => (keyByte_take k long hm).symm,
    fun k n nonempty => keySchedule_congr fun m _ => keyByte_flatten_replicate k n m nonempty⟩

end Sys2Proof.Machine
end

section
/-! PROOFS. A KEYSET that fails (40_codec.md R131). -/

namespace Sys2Proof.Machine

variable {s : State}

/-- KEYSET with a key of a legal length that does not lie inside DMEM ends with RANGE (40_codec.md R131). -/
theorem execKeyset_range (legal : 8 ≤ s.dataLen ∧ s.dataLen ≤ 448) (data : s.dmemBytes < s.dataAddr + s.dataLen) :
    execKeyset s = .next (s.complete .error .range) := by
  rw [execKeyset, if_neg (by simp only [Config.keyMinBytes, Config.keyMaxBytes]; omega), if_pos data, raiseError]

/-- Settles O33: both errors complete the command, which writes RESULT, ERRCODE and the latch alone. -/
theorem failedKeysetChangesNothing : Obligations.FailedKeysetChangesNothing := by
  unfold Obligations.FailedKeysetChangesNothing
  exact fun s => ⟨execKeyset_invalidKey, fun low high data => execKeyset_range ⟨low, high⟩ data⟩

end Sys2Proof.Machine
end

section
/-! PROOFS. The INIT codec holds the INIT table (10_state.md R32, R33). -/

namespace Sys2Proof.Machine

@[simp] theorem initP_length : initP.length = 18 := by decide +kernel
@[simp] theorem initS0_length : initS0.length = 256 := by decide +kernel
@[simp] theorem initS1_length : initS1.length = 256 := by decide +kernel
@[simp] theorem initS2_length : initS2.length = 256 := by decide +kernel
@[simp] theorem initS3_length : initS3.length = 256 := by decide +kernel

/-- A part of the INIT table as a vector: entry `n` stands `n` past what is before the part (10_state.md R32). -/
theorem getElem_part {pre part post : List Word} (parts : initTable = pre ++ part ++ post) {k size : Nat}
    (place : pre.length = k) (len : part.toArray.size = size) (n : Fin size) :
    (Vector.mk part.toArray len)[n] = initWord (k + n.val) := by
  have inside : n.val < part.length := by rw [← List.size_toArray, len]; exact n.isLt
  rw [initWord, parts, ← place, List.append_assoc, List.getD_append_right _ _ _ _ (by omega),
    Nat.add_sub_cancel_left, List.getD_append _ _ _ _ inside, List.getD_eq_getElem _ _ inside]
  rfl

theorem initCodec_P (i : Fin 18) : initCodec.P[i] = initWord i.val := by
  have parts : initTable = [] ++ initP ++ (initS0 ++ initS1 ++ initS2 ++ initS3) := by
    simp only [initTable, List.nil_append, List.append_assoc]
  have entry : initCodec.P[i] = initWord (0 + i.val) := getElem_part parts rfl _ i
  rwa [Nat.zero_add] at entry

theorem initCodec_S (j : Fin 4) (n : Fin 256) : initCodec.S[j][n] = initWord (18 + 256 * j.val + n.val) := by
  match j with
  | 0 =>
    have parts : initTable = initP ++ initS0 ++ (initS1 ++ initS2 ++ initS3) := by
      simp only [initTable, List.append_assoc]
    exact getElem_part parts initP_length _ n
  | 1 =>
    have parts : initTable = (initP ++ initS0) ++ initS1 ++ (initS2 ++ initS3) := by
      simp only [initTable, List.append_assoc]
    exact getElem_part parts (by simp) _ n
  | 2 =>
    have parts : initTable = (initP ++ initS0 ++ initS1) ++ initS2 ++ initS3 := rfl
    exact getElem_part parts (by simp) _ n
  | 3 =>
    have parts : initTable = (initP ++ initS0 ++ initS1 ++ initS2) ++ initS3 ++ [] := by
      simp only [initTable, List.append_nil]
    exact getElem_part parts (by simp) _ n

end Sys2Proof.Machine
end

section
/-! PROOFS. The key schedule as one run of 521 passes (40_codec.md R128, R129). -/

namespace Sys2Proof.Machine

variable {σ : Type}

/-- A loop inside a loop is one loop, whose pass number tells where the two stand. -/
theorem loop_loop (n k : Nat) (body : Nat → Nat → σ → σ) (x : σ) :
    loop n (fun j => loop k (body j)) x = loop (n * k) (fun m => body (m / k) (m % k)) x := by
  induction n with
  | zero => simp
  | succ n ih =>
    rw [loop_succ, ih, Nat.succ_mul, loop_add]
    refine loop_related Eq k _ _ _ _ rfl fun i hi u v same => ?_
    have outer : (n * k + i) / k = n := by
      rw [Nat.mul_comm, Nat.mul_add_div (by omega), Nat.div_eq_of_lt hi, Nat.add_zero]
    have inner : (n * k + i) % k = i := by rw [Nat.mul_comm, Nat.mul_add_mod, Nat.mod_eq_of_lt hi]
    rw [outer, inner, same]

/-- Pass `m` of the key schedule: encipherment `m`, whose pair goes to P in the first 9 passes, then to S in 4 * 128
(40_codec.md R128). -/
def keyPass (m : Nat) (w : KeyWork) : KeyWork :=
  if m < 9 then w.advance.storeP (2 * m) else w.advance.storeS ((m - 9) / 128) (2 * ((m - 9) % 128))

/-- The working state of the key schedule after `m` passes. -/
def keyRun (key : List Byte) (m : Nat) : KeyWork := loop m keyPass { codec := mixKey key initCodec, l := 0, r := 0 }

/-- The running pair. -/
def KeyWork.pair (w : KeyWork) : Word × Word := (w.l, w.r)

/-- The two phases of the schedule are the passes below 9 and those from 9 on. -/
theorem rederive_eq_loop (c : Codec) : rederive c = loop (9 + 4 * 128) keyPass { codec := c, l := 0, r := 0 } := by
  have tableP (w : KeyWork) : loop 9 (fun m w => w.advance.storeP (2 * m)) w = loop 9 keyPass w :=
    loop_related Eq 9 _ _ w w rfl fun m hm u v same => by rw [same, keyPass, if_pos hm]
  have tableS (w : KeyWork) : loop 4 (fun j w => loop 128 (fun m w => w.advance.storeS j (2 * m)) w) w =
      loop (4 * 128) (fun m => keyPass (9 + m)) w := by
    refine (loop_loop 4 128 (fun j m w => w.advance.storeS j (2 * m)) w).trans ?_
    refine loop_related Eq _ _ _ w w rfl fun m _ u v same => ?_
    rw [same, keyPass, if_neg (by omega), Nat.add_sub_cancel_left]
  rw [rederive, tableP, tableS, loop_add]

theorem keySchedule_eq_keyRun (key : List Byte) : keySchedule key = (keyRun key 521).codec := by
  rw [keySchedule_eq, rederive_eq_loop, keyRun]

theorem keyRun_succ (key : List Byte) (m : Nat) : keyRun key (m + 1) = keyPass m (keyRun key m) := rfl

@[simp] theorem storeP_pair (i : Nat) (w : KeyWork) : (w.storeP i).pair = w.pair := rfl

@[simp] theorem storeS_pair (j n : Nat) (w : KeyWork) : (w.storeS j n).pair = w.pair := by
  unfold KeyWork.storeS
  split <;> rfl

@[simp] theorem advance_pair (w : KeyWork) : w.advance.pair = encipher w.codec w.pair := rfl

/-- A pair written to two neighbouring entries. -/
theorem getElem_setIfInBounds_pair {n : Nat} (v : Vector Word n) (i : Nat) (l r : Word) (k : Fin n) :
    ((v.setIfInBounds i l).setIfInBounds (i + 1) r)[k] =
      if k.val = i then l else if k.val = i + 1 then r else v[k] := by
  by_cases lower : k.val = i
  · simp [lower]
  · by_cases upper : k.val = i + 1
    · simp [upper]
    · simp [lower, upper, Vector.getElem_setIfInBounds_ne, Ne.symm lower, Ne.symm upper]

/-- `P[i] <- l ; P[i+1] <- r` (40_codec.md R128). -/
theorem storeP_P (i : Nat) (w : KeyWork) (k : Fin 18) :
    (w.storeP i).codec.P[k] =
      if k.val = i then w.pair.1 else if k.val = i + 1 then w.pair.2 else w.codec.P[k] :=
  getElem_setIfInBounds_pair w.codec.P i w.l w.r k

/-- `S[j][n] <- l ; S[j][n+1] <- r` (40_codec.md R128). -/
theorem storeS_S {j : Nat} (hj : j < 4) (n : Nat) (w : KeyWork) (i : Fin 4) (k : Fin 256) :
    (w.storeS j n).codec.S[i][k] =
      if i.val = j ∧ k.val = n then w.pair.1 else if i.val = j ∧ k.val = n + 1 then w.pair.2
      else w.codec.S[i][k] := by
  rw [KeyWork.storeS, dif_pos hj]
  by_cases box : i.val = j
  · subst box
    simpa [KeyWork.pair] using getElem_setIfInBounds_pair w.codec.S[i] n w.l w.r k
  · have other : j ≠ i.val := fun h => box h.symm
    simp [box, Vector.getElem_set_ne hj i.isLt other]

theorem keyPass_P (m : Nat) (w : KeyWork) (i : Fin 18) :
    (keyPass m w).codec.P[i] =
      if m < 9 ∧ i.val = 2 * m then (keyPass m w).pair.1
      else if m < 9 ∧ i.val = 2 * m + 1 then (keyPass m w).pair.2 else w.codec.P[i] := by
  by_cases phase : m < 9
  · simp only [keyPass, phase, true_and, if_true, storeP_P, storeP_pair, advance_codec]
  · simp only [keyPass, phase, false_and, if_false, storeS_P, advance_codec]

theorem keyPass_S {m : Nat} (hm : m < 521) (w : KeyWork) (j : Fin 4) (n : Fin 256) :
    (keyPass m w).codec.S[j][n] =
      if 9 ≤ m ∧ j.val = (m - 9) / 128 ∧ n.val = 2 * ((m - 9) % 128) then (keyPass m w).pair.1
      else if 9 ≤ m ∧ j.val = (m - 9) / 128 ∧ n.val = 2 * ((m - 9) % 128) + 1 then (keyPass m w).pair.2
      else w.codec.S[j][n] := by
  by_cases phase : m < 9
  · have early : ¬ 9 ≤ m := by omega
    simp only [keyPass, phase, early, false_and, if_false, if_true, storeP_S, advance_codec]
  · have late : 9 ≤ m := by omega
    have box : (m - 9) / 128 < 4 := by omega
    simp only [keyPass, phase, late, true_and, if_false, storeS_S box, storeS_pair, advance_codec]

theorem keyPass_pair (m : Nat) (w : KeyWork) : (keyPass m w).pair = encipher w.codec w.pair := by
  unfold keyPass
  split <;> simp

/-- Only the first pass writes P[0] and P[1] (40_codec.md R128). -/
theorem keyRun_P_firstPair (key : List Byte) {m : Nat} (hm : 1 ≤ m) (i : Fin 18) (hi : i.val < 2) :
    (keyRun key m).codec.P[i] = (keyRun key 1).codec.P[i] := by
  induction m, hm using Nat.le_induction with
  | base => rfl
  | succ m hm ih => rw [keyRun_succ, keyPass_P, if_neg (by omega), if_neg (by omega), ih]

theorem mixKey_P (key : List Byte) (c : Codec) (i : Fin 18) : (mixKey key c).P[i] = c.P[i] ^^^ keyWord key i.val := by
  simp [mixKey]

theorem mixKey_S (key : List Byte) (c : Codec) (j : Fin 4) (n : Fin 256) : (mixKey key c).S[j][n] = c.S[j][n] := by
  rw [mixKey]

theorem keyByte_zeros (n m : Nat) : keyByte (List.replicate n 0) m = 0 := by
  simp [keyByte_eq]

theorem keyWord_zeros (n i : Nat) : keyWord (List.replicate n 0) i = 0#32 := by
  simp only [keyWord, keyByte_zeros]
  rfl

/-- Key words that are all 0 leave the tables as they are. -/
theorem mixKey_zeros (n : Nat) (c : Codec) : mixKey (List.replicate n 0) c = c := by
  obtain ⟨P, S⟩ := c
  simp only [mixKey, keyWord_zeros, BitVec.xor_zero, Codec.mk.injEq, and_true]
  ext i hi
  simp

/-- KEYSET of the all-zero key of 8 bytes: its first encipherment (40_codec.md R128). -/
theorem encipher_initCodec_zero : encipher initCodec (0, 0) = (0x706D9FCC#32, 0x1792D23A#32) := by decide +kernel

/-- The first pass for the all-zero key runs on the INIT tables (40_codec.md R128). -/
theorem keyRun_zeros_pair : (keyRun (List.replicate 8 0) 1).pair = (0x706D9FCC#32, 0x1792D23A#32) := by
  rw [keyRun_succ, keyPass_pair, ← encipher_initCodec_zero]
  change encipher (mixKey _ initCodec) (0, 0) = _
  rw [mixKey_zeros]

/-- The pair of the first encipherment stays in P[0], P[1] (40_codec.md R128). -/
theorem keySchedule_firstPair (key : List Byte) :
    ((keySchedule key).P[0], (keySchedule key).P[1]) = (keyRun key 1).pair := by
  have first (i : Fin 18) (hi : i.val < 2) : (keySchedule key).P[i] = (keyPass 0 (keyRun key 0)).codec.P[i] := by
    rw [keySchedule_eq_keyRun, keyRun_P_firstPair key (by decide) i hi, keyRun_succ]
  refine Prod.ext ((first 0 (by decide)).trans ?_) ((first 1 (by decide)).trans ?_)
  · rw [keyPass_P, if_pos (by decide), keyRun_succ]
  · rw [keyPass_P, if_neg (by decide), if_pos (by decide), keyRun_succ]

/-- Settles O30: the tables and pairs are those of `keyRun`, pass by pass. -/
theorem keyScheduleRunsInOrder : Obligations.KeyScheduleRunsInOrder := by
  unfold Obligations.KeyScheduleRunsInOrder
  refine ⟨fun key => ⟨fun m => (keyRun key m).codec, fun m => (keyRun key m).pair, fun i => ?_, fun j n => ?_, rfl,
    fun m hm => ⟨?_, fun i => ?_, fun j n => ?_⟩, keySchedule_eq_keyRun key⟩, fun i _ => keyWord_zeros 8 i,
    encipher_initCodec_zero,
    Prod.mk.inj ((keySchedule_firstPair _).trans keyRun_zeros_pair)⟩
  · exact initCodec_P i ▸ mixKey_P key initCodec i
  · exact (mixKey_S key initCodec j n).trans (initCodec_S j n)
  · exact keyPass_pair m (keyRun key m)
  · exact keyPass_P m (keyRun key m) i
  · exact keyPass_S hm (keyRun key m) j n

end Sys2Proof.Machine
end

section
/-! PROOFS. ECB: what declines, the IV registers, and the two orders of the round trip (41_ecb.md R161 to R164). -/

namespace Sys2Proof.Machine

variable {s : State}

@[simp] theorem exec_ecbEnc (s : State) : exec .ecbEnc s = ecbCommand blockEnc s := rfl

@[simp] theorem exec_ecbDec (s : State) : exec .ecbDec s = ecbCommand blockDec s := rfl

/-- Both ECB commands have the one shape, with a block transform of their own (41_ecb.md R162, R163). -/
theorem exec_ecb {i : Instr} (ecb : i = .ecbEnc ∨ i = .ecbDec) : ∃ f, ∀ s, exec i s = ecbCommand f s := by
  rcases ecb with rfl | rfl
  · exact ⟨blockEnc, exec_ecbEnc⟩
  · exact ⟨blockDec, exec_ecbDec⟩

/-- Blocks held as they were read are bytes held as they were read, with the draw numbers of one read of all of them. -/
theorem get?_of_holds_readBlock {m m' : Memory} {a d n : Nat}
    (held : ∀ i < n, m'.holdsBlock (a + 8 * i) (m.readBlock (a + 8 * i) (d + 8 * i))) {j : Nat} (hj : j < 8 * n) :
    m'.get? (a + j) = some (m.byteAt (a + j) (d + j)) := by
  have lane : j % 8 < 8 := Nat.mod_lt j (by decide)
  have byte := held (j / 8) (by omega) (j % 8) lane
  rw [Memory.readBlock, toList_ofFn, if_pos lane] at byte
  simpa only [Nat.add_assoc, Nat.div_add_mod] using byte

/-- A second ECB loop, over what a first one left, with the transform that undoes it: each block is held again as the
first loop read it, whatever the draw numbers of the second (41_ecb.md R164). -/
theorem ecbLoop_undo {f g : Block → Block} (undo : ∀ b, g (f b) = b) (a d d' n : Nat) (m : Memory) :
    (∀ i < n, (loop n (ecbBlock g a d') (loop n (ecbBlock f a d) m)).holdsBlock (a + 8 * i)
        (m.readBlock (a + 8 * i) (d + 8 * i))) ∧
      m.sameOutside (loop n (ecbBlock g a d') (loop n (ecbBlock f a d) m)) a (8 * n) := by
  obtain ⟨held, out⟩ := ecbLoop_spec f a d n m
  obtain ⟨held', out'⟩ := ecbLoop_spec g a d' n (loop n (ecbBlock f a d) m)
  refine ⟨fun i hi => ?_, fun x hx => (out' x hx).trans (out x hx)⟩
  have block := held' i hi
  rwa [readBlock_of_holds (held i hi), undo] at block

/-- An ECB command, then the one that undoes its block transform, accepted with any command word (41_ecb.md R164). -/
theorem ecbCommand_roundTrip {f g : Codec → Block → Block} (undo : ∀ c b, g c (f c b) = b) (w : Word)
    (key : s.status.keyValid = true) (nonempty : s.dataLen ≠ 0) (whole : s.dataLen % 8 = 0)
    (data : s.dataAddr + s.dataLen ≤ s.dmemBytes) :
    ∃ t u, ecbCommand f s = .next t ∧ ecbCommand g (accept w t) = .next u ∧
      (∀ j < s.dataLen, u.dmem.get? (s.dataAddr + j) = some (s.dmem.byteAt (s.dataAddr + j) (s.draws + j))) ∧
      s.dmem.sameOutside u.dmem s.dataAddr s.dataLen := by
  obtain ⟨held, out⟩ := ecbLoop_undo (undo s.codec) s.dataAddr s.draws (s.draws + s.dataLen) (s.dataLen / 8) s.dmem
  have length : 8 * (s.dataLen / 8) = s.dataLen := by omega
  rw [length] at out
  exact ⟨_, _, ecbCommand_ok f key nonempty whole data, ecbCommand_ok g key nonempty whole data,
    fun j hj => get?_of_holds_readBlock held (by omega), out⟩

/-- Settles O41: each of BlockEnc and BlockDec undoes the other, so both orders are `ecbCommand_roundTrip`. -/
theorem ecbRoundTrip : Obligations.EcbRoundTrip := by
  unfold Obligations.EcbRoundTrip
  exact fun s key nonempty whole data =>
    ⟨ecbCommand_roundTrip blockDec_blockEnc _ key nonempty whole data,
      ecbCommand_roundTrip blockEnc_blockDec _ key nonempty whole data⟩

/-- ECB with a key and a bad LEN declines, wherever the data lies (41_ecb.md R161). -/
theorem ecbCommand_declined (f : Codec → Block → Block) (key : s.status.keyValid = true)
    (bad : s.dataLen = 0 ∨ s.dataLen % 8 ≠ 0) : ecbCommand f s = .next (s.complete .declined .noError) := by
  rw [ecbCommand, if_neg (by simp [key]), if_pos bad, decline]

/-- ECB with a key, a good LEN and data that leaves DMEM ends with RANGE (60_exceptions.md R237). -/
theorem ecbCommand_range (f : Codec → Block → Block) (key : s.status.keyValid = true)
    (good : ¬ (s.dataLen = 0 ∨ s.dataLen % 8 ≠ 0)) (data : s.dmemBytes < s.dataAddr + s.dataLen) :
    ecbCommand f s = .next (s.complete .error .range) := by
  rw [ecbCommand, if_neg (by simp [key]), if_neg good, if_pos data, raiseError]

/-- The operand registers with other values in IVADDR and IVLEN. -/
def OperandRegs.withIv (r : OperandRegs) (x y : Word) : OperandRegs := { r with ivaddr := x, ivlen := y }

/-- ECB neither reads nor writes IVADDR and IVLEN, in each of its three outcomes with a key (41_ecb.md R161). -/
theorem ecbCommand_withIv (f : Codec → Block → Block) (key : s.status.keyValid = true) (x y : Word) :
    ∃ t, ecbCommand f s = .next t ∧
      ecbCommand f (s.withRegs (s.regs.withIv x y)) = .next (t.withRegs (t.regs.withIv x y)) := by
  by_cases bad : s.dataLen = 0 ∨ s.dataLen % 8 ≠ 0
  · exact ⟨_, ecbCommand_declined f key bad, ecbCommand_declined f key bad⟩
  by_cases data : s.dataAddr + s.dataLen ≤ s.dmemBytes
  · have nonempty : s.dataLen ≠ 0 := by omega
    have whole : s.dataLen % 8 = 0 := by omega
    exact ⟨_, ecbCommand_ok f key nonempty whole data, ecbCommand_ok f key nonempty whole data⟩
  · have outside : s.dmemBytes < s.dataAddr + s.dataLen := by omega
    exact ⟨_, ecbCommand_range f key bad outside, ecbCommand_range f key bad outside⟩

/-- Settles O40: the decline, and the independence of the IV registers, of the one shape of both commands. -/
theorem ecbInputContract : Obligations.EcbInputContract := by
  unfold Obligations.EcbInputContract
  refine fun s key => ⟨fun bad i ecb => ?_, fun i ecb x y => ?_⟩
  · obtain ⟨f, shape⟩ := exec_ecb ecb
    exact (shape s).trans (ecbCommand_declined f key bad)
  · obtain ⟨f, shape⟩ := exec_ecb ecb
    simp only [shape]
    exact ecbCommand_withIv f key x y

end Sys2Proof.Machine
end

section
/-! PROOFS. CBC: decryption over ciphertext that memory holds, and the round trip (42_cbc.md R182 to R184). -/

namespace Sys2Proof.Machine

variable {s : State}

@[simp] theorem exec_cbcEnc (s : State) : exec .cbcEnc s = cbcCommand cbcEncBlock s := rfl

@[simp] theorem exec_cbcDec (s : State) : exec .cbcDec s = cbcCommand cbcDecBlock s := rfl

section
variable {c : Codec} {m m' : Memory} {a d n : Nat} {iv : Block}

/-- Over ciphertext that memory holds, decryption chains with the values that encryption chained with
(42_cbc.md R182, R183). -/
theorem cbcSaved_eq_cbcPrev (held : ∀ i < n, m'.holdsBlock (a + 8 * i) (cbcCipher c m a d iv i)) (d' : Nat) {i : Nat}
    (hi : i < n) : cbcSaved m' a d' iv i = cbcPrev c m a d iv i := by
  cases i with
  | zero => rfl
  | succ i => exact readBlock_of_holds (held i (by omega)) _

/-- CBC decryption over the ciphertext of what stood in `m`, with the IV of the encryption: each block is held as the
encryption read it, whatever the draw numbers of the decryption (42_cbc.md R184). -/
theorem cbcDecLoop_of_cipher (held : ∀ i < n, m'.holdsBlock (a + 8 * i) (cbcCipher c m a d iv i))
    (out : m.sameOutside m' a (8 * n)) {iv' : Block} (sameIv : iv' = iv) (d' : Nat) :
    (∀ i < n, (loop n (cbcDecBlock c a d') { dmem := m', prev := iv' }).dmem.holdsBlock (a + 8 * i)
        (m.readBlock (a + 8 * i) (d + 8 * i))) ∧
      m.sameOutside (loop n (cbcDecBlock c a d') { dmem := m', prev := iv' }).dmem a (8 * n) := by
  subst sameIv
  obtain ⟨plain, out', -⟩ := cbcDecLoop_spec c a d' n m' iv'
  refine ⟨fun i hi => ?_, fun x hx => (out' x hx).trans (out x hx)⟩
  have block := plain i hi
  rwa [readBlock_of_holds (held i hi), cbcSaved_eq_cbcPrev held d' hi, cbcCipher_eq, blockDec_blockEnc,
    xor_cancel] at block

end

/-- CBC encryption, then CBC decryption, accepted with any command word, that reads the same IV bytes
(42_cbc.md R184). -/
theorem cbcCommand_roundTrip (w : Word) (key : s.status.keyValid = true) (nonempty : s.dataLen ≠ 0)
    (whole : s.dataLen % 8 = 0) (eight : s.ivLen = 8) (data : s.dataAddr + s.dataLen ≤ s.dmemBytes)
    (ivData : s.ivAddr + 8 ≤ s.dmemBytes) :
    ∃ t, cbcCommand cbcEncBlock s = .next t ∧
      (t.dmem.readBlock s.ivAddr t.draws = s.dmem.readBlock s.ivAddr s.draws →
        ∃ u, cbcCommand cbcDecBlock (accept w t) = .next u ∧
          (∀ j < s.dataLen, u.dmem.get? (s.dataAddr + j) = some (s.dmem.byteAt (s.dataAddr + j) (s.draws + 8 + j))) ∧
          s.dmem.sameOutside u.dmem s.dataAddr s.dataLen) := by
  refine ⟨_, cbcCommand_ok cbcEncBlock key nonempty whole eight data ivData, fun sameIv =>
    ⟨_, cbcCommand_ok cbcDecBlock key nonempty whole eight data ivData, ?_⟩⟩
  obtain ⟨held, out, -⟩ :=
    cbcEncLoop_spec s.codec s.dataAddr (s.draws + 8) (s.dataLen / 8) s.dmem (s.dmem.readBlock s.ivAddr s.draws)
  obtain ⟨plain, out'⟩ := cbcDecLoop_of_cipher held out sameIv (s.draws + (8 + s.dataLen) + 8)
  have length : 8 * (s.dataLen / 8) = s.dataLen := by omega
  rw [length] at out'
  exact ⟨fun j hj => get?_of_holds_readBlock plain (by omega), out'⟩

/-- Settles O44: CBC_ENC leaves the chained ciphertext, and CBC_DEC over it undoes each block by
`cbcDecLoop_of_cipher`. -/
theorem cbcRoundTrip : Obligations.CbcRoundTrip := by
  unfold Obligations.CbcRoundTrip
  simp only [exec_cbcEnc, exec_cbcDec]
  exact fun s key nonempty whole eight data ivData =>
    cbcCommand_roundTrip _ key nonempty whole eight data ivData

end Sys2Proof.Machine
end

section
/-! PROOFS. CTR: the keystream over the whole buffer, the counter written back, and the round trip
(43_ctr.md R203 to R209). -/

namespace Sys2Proof.Machine

variable {s t : State}

@[simp] theorem exec_ctrCrypt (s : State) : exec .ctrCrypt s = execCtrCrypt s := rfl

/-- The counter of block `n` is taken mod 2^64 (43_ctr.md R203). -/
theorem ctrCounter_toNat (c0 : Counter) (n : Nat) : (ctrCounter c0 n).toNat = (c0.toNat + n) % 2 ^ 64 := by
  rw [ctrCounter, BitVec.toNat_add, BitVec.toNat_ofNat, Nat.add_mod_mod]

/-- The blocks of a CTR command cover the buffer: after the last of them all of its bytes, a last partial block too, are
XORed with the keystream, and nothing else has changed (43_ctr.md R202, R204). -/
theorem ctrLoop_buffer (c : Codec) (iv : Block) (c0 : Counter) (a len d : Nat) (m : Memory) :
    (∀ j < len, (loop (ctrBlocks len) (ctrBlock c iv c0 a len d) m).get? (a + j) =
        some (m.byteAt (a + j) (d + j) ^^^ ctrByte c iv c0 j)) ∧
      m.sameOutside (loop (ctrBlocks len) (ctrBlock c iv c0 a len d) m) a len := by
  have covered : min (8 * ctrBlocks len) len = len := by
    simp only [ctrBlocks]
    omega
  have spec := ctrLoop_spec c iv c0 a len d (ctrBlocks len) m
  rwa [covered] at spec

/-- Settles O45: the state is that of `execCtrCrypt_ok`, and `ctrLoop_buffer` says what its memory holds. -/
theorem ctrXorsTheKeystream : Obligations.CtrXorsTheKeystream := by
  unfold Obligations.CtrXorsTheKeystream
  exact fun s key nonempty eight data ivData =>
    ⟨_, ctrCounter s.regs.counter (ctrBlocks s.dataLen), execCtrCrypt_ok key nonempty eight data ivData,
      ctrCounter_toNat _ _, ctrLoop_buffer s.codec _ s.regs.counter s.dataAddr s.dataLen (s.draws + 8) s.dmem⟩

/-- CTR_CRYPT ends OK with the counter moved on by the number of blocks, or ends otherwise with every register as it
was (43_ctr.md R206). -/
theorem execCtrCrypt_regs (h : execCtrCrypt s = .next t) :
    (t.status.result = .ok ∧ t.regs = s.regs.withCounter (ctrCounter s.regs.counter (ctrBlocks s.dataLen))) ∨
      (t.status.result ≠ .ok ∧ t.regs = s.regs) := by
  obtain ⟨-, rfl⟩ | ⟨-, -, rfl⟩ | ⟨-, -, -, rfl⟩ | ⟨-, -, -, rfl⟩ := execCtrCrypt_cases h
  case inr.inr.inr => exact .inl ⟨rfl, rfl⟩
  all_goals exact .inr ⟨by simp, rfl⟩

/-- Settles O46: each of the two ends of `execCtrCrypt_regs` rules the other clause out. -/
theorem counterWriteBack : Obligations.CounterWriteBack := by
  unfold Obligations.CounterWriteBack
  intro s t h
  obtain ⟨ok, regs⟩ | ⟨notOk, regs⟩ := execCtrCrypt_regs h
  · have counter : t.regs.counter = ctrCounter s.regs.counter (ctrBlocks s.dataLen) := by
      rw [regs, counter_withCounter]
    exact ⟨fun _ => counter, fun notOk => absurd ok notOk⟩
  · exact ⟨fun ok => absurd ok notOk, fun _ => regs⟩

/-- A second CTR loop, over what a first one left, with the same keystream: each byte is held again as the first loop
read it, whatever the draw numbers of the second (43_ctr.md R209). -/
theorem ctrLoop_undo (c : Codec) {iv iv' : Block} (sameIv : iv' = iv) (c0 : Counter) (a len d d' : Nat) (m : Memory) :
    (∀ j < len, (loop (ctrBlocks len) (ctrBlock c iv' c0 a len d')
        (loop (ctrBlocks len) (ctrBlock c iv c0 a len d) m)).get? (a + j) = some (m.byteAt (a + j) (d + j))) ∧
      m.sameOutside (loop (ctrBlocks len) (ctrBlock c iv' c0 a len d')
        (loop (ctrBlocks len) (ctrBlock c iv c0 a len d) m)) a len := by
  subst sameIv
  obtain ⟨held, out⟩ := ctrLoop_buffer c iv' c0 a len d m
  obtain ⟨held', out'⟩ := ctrLoop_buffer c iv' c0 a len d' (loop (ctrBlocks len) (ctrBlock c iv' c0 a len d) m)
  refine ⟨fun j hj => ?_, fun x hx => (out' x hx).trans (out x hx)⟩
  rw [held' j hj, byteAt_of_some (held j hj), BitVec.xor_assoc, BitVec.xor_self, BitVec.xor_zero]

/-- Settles O47: with the counter rewritten the second command runs the first one's keystream, which `ctrLoop_undo`
says restores the buffer. -/
theorem ctrRoundTrip : Obligations.CtrRoundTrip := by
  unfold Obligations.CtrRoundTrip
  exact fun s key nonempty eight data ivData =>
    ⟨_, execCtrCrypt_ok key nonempty eight data ivData, fun sameIv =>
      ⟨_, execCtrCrypt_ok key nonempty eight data ivData,
        ctrLoop_undo s.codec sameIv s.regs.counter s.dataAddr s.dataLen (s.draws + 8) _ s.dmem⟩⟩

end Sys2Proof.Machine
end

section
/-! PROOFS. How commands end: acceptance, the one outcome of each completion, and what one that is not OK leaves
(60_exceptions.md R230 to R241). -/

namespace Sys2Proof.Machine

variable {s t : State} {i : Instr}

theorem targetOf_cmd (n : Nat) : targetOf n 0#15 = .reg .cmd := rfl

/-- A full-width write to CMD is dropped or accepted by BUSY alone, whatever its word (60_exceptions.md R230). -/
theorem hostWrite_cmd (w : Word) (s : State) :
    hostWrite 0#15 w 0b1111#4 s = if s.busy then dropAccess s else accept w s := by
  rw [hostWrite_of_targetOf_reg (targetOf_cmd _), if_pos rfl, writeReg]

/-- Settles O49: BUSY is the fullness of the latch, so it picks the branch of `hostWrite_cmd`. -/
theorem cmdWriteIsAcceptedWhenIdle : Obligations.CmdWriteIsAcceptedWhenIdle := by
  unfold Obligations.CmdWriteIsAcceptedWhenIdle
  intro s w
  rw [hostWrite_cmd]
  constructor
  · intro idle
    have notBusy : ¬ s.busy = true := by simp [idle]
    exact if_neg notBusy
  · intro busy
    exact if_pos busy

/-- No two conditions of the list are the first that holds: a command has one outcome (60_exceptions.md R240). -/
theorem Ends.unique {r r' : Result} {e e' : ErrCode} (h : Ends i s r e) (h' : Ends i s r' e') : r' = r ∧ e' = e := by
  cases h with
  | invalidKey keyset bad =>
    subst keyset
    cases h' with
    | invalidKey => exact ⟨rfl, rfl⟩
    | noKey need | declined need => cases need
    | range legal | ok legal => have := legal rfl; omega
  | noKey need noKey =>
    cases h' with
    | invalidKey keyset => subst keyset; cases need
    | noKey => exact ⟨rfl, rfl⟩
    | declined _ key => simp [noKey] at key
    | range _ key | ok _ key => simp [noKey, need] at key
  | declined need key declines =>
    cases h' with
    | invalidKey keyset => subst keyset; cases need
    | noKey _ noKey => simp [key] at noKey
    | declined => exact ⟨rfl, rfl⟩
    | range _ _ good | ok _ _ good => exact absurd declines good
  | range legal key good outside =>
    cases h' with
    | invalidKey keyset bad => have := legal keyset; omega
    | noKey need noKey => simp [key need] at noKey
    | declined _ _ declines => exact absurd declines good
    | range => exact ⟨rfl, rfl⟩
    | ok _ _ _ inside => exact absurd outside inside
  | ok legal key good inside =>
    cases h' with
    | invalidKey keyset bad => have := legal keyset; omega
    | noKey need noKey => simp [key need] at noKey
    | declined _ _ declines => exact absurd declines good
    | range _ _ _ outside => exact absurd outside inside
    | ok => exact ⟨rfl, rfl⟩

/-- Only a command that needs a key ends with NO_KEY (60_exceptions.md R236). -/
theorem Ends.needsKey_of_noKey {r : Result} {e : ErrCode} (h : Ends i s r e) (noKey : e = .noKey) :
    needsKey i = true := by
  cases h with
  | noKey need => exact need
  | _ => cases noKey

/-- A state that command `i` may leave at its completion on `s` (60_exceptions.md R240, R241): the outcome is that of
the first condition that holds, and only with OK is it written into another state than `s`. -/
inductive EndsIn (i : Instr) (s : State) : State → Prop
  | unchanged {r : Result} {e : ErrCode} : Ends i s r e → EndsIn i s (s.complete r e)
  | ok {u : State} : Ends i s .ok .noError → EndsIn i s (u.complete .ok .noError)

theorem EndsIn.latch (h : EndsIn i s t) : t.latch = none := by
  cases h <;> rfl

theorem EndsIn.ends (h : EndsIn i s t) : Ends i s t.status.result t.status.errcode := by
  cases h with
  | unchanged ends | ok ends => exact ends

theorem EndsIn.eq_complete (h : EndsIn i s t) (notOk : t.status.result ≠ .ok) :
    t = s.complete t.status.result t.status.errcode := by
  cases h with
  | unchanged => rfl
  | ok => exact absurd rfl notOk

theorem ne_keyset_of_needsKey (need : needsKey i = true) : i ≠ .keyset := by
  rintro rfl
  cases need

theorem needsKey_of_ne_keyset (other : i ≠ .keyset) : needsKey i = true := by
  cases i with
  | keyset => exact absurd rfl other
  | _ => rfl

section
variable (need : needsKey i = true) (key : s.status.keyValid = true)
include need key

theorem Ends.range_of_key (good : ¬ declinesOn i s) (outside : outOfRange i s) : Ends i s .error .range :=
  .range (fun keyset => absurd keyset (ne_keyset_of_needsKey need)) (fun _ => key) good outside

theorem Ends.ok_of_key (good : ¬ declinesOn i s) (inside : ¬ outOfRange i s) : Ends i s .ok .noError :=
  .ok (fun keyset => absurd keyset (ne_keyset_of_needsKey need)) (fun _ => key) good inside

end

theorem execKeyset_endsIn (h : execKeyset s = .next t) : EndsIn .keyset s t := by
  obtain ⟨bad, rfl⟩ | ⟨legal, outside, rfl⟩ | ⟨legal, inside, rfl⟩ := execKeyset_cases h
  · exact .unchanged (.invalidKey rfl bad)
  · exact .unchanged (.range (fun _ => legal) nofun id outside)
  · exact .ok (.ok (fun _ => legal) nofun id (Nat.not_lt.mpr inside))

/-- A mode command: no key, decline, RANGE and OK are its cases, in this order (60_exceptions.md R240). -/
theorem endsIn_of_modeCases {within : Prop} {u : State} (need : needsKey i = true)
    (inside : within → ¬ outOfRange i s)
    (h : (s.status.keyValid = false ∧ t = s.complete .error .noKey) ∨
      (s.status.keyValid = true ∧ declinesOn i s ∧ t = s.complete .declined .noError) ∨
      (s.status.keyValid = true ∧ ¬ declinesOn i s ∧ outOfRange i s ∧ t = s.complete .error .range) ∨
      (s.status.keyValid = true ∧ ¬ declinesOn i s ∧ within ∧ t = u.complete .ok .noError)) : EndsIn i s t := by
  obtain ⟨noKey, rfl⟩ | ⟨key, declines, rfl⟩ | ⟨key, good, outside, rfl⟩ | ⟨key, good, data, rfl⟩ := h
  · exact .unchanged (.noKey need noKey)
  · exact .unchanged (.declined need key declines)
  · exact .unchanged (.range_of_key need key good outside)
  · exact .ok (.ok_of_key need key good (inside data))

/-- A command leaves only a state that the order of the conditions allows (60_exceptions.md R240, R241). -/
theorem exec_endsIn (h : exec i s = .next t) : EndsIn i s t := by
  cases i with
  | keyset => exact execKeyset_endsIn h
  | encipher | decipher =>
    obtain ⟨noKey, rfl⟩ | ⟨key, rfl⟩ := pairCommand_cases h
    · exact .unchanged (.noKey rfl noKey)
    · exact .ok (.ok_of_key rfl key id id)
  | blkEnc | blkDec =>
    obtain ⟨noKey, rfl⟩ | ⟨key, outside, rfl⟩ | ⟨key, inside, rfl⟩ := blockCommand_cases h
    · exact .unchanged (.noKey rfl noKey)
    · exact .unchanged (.range_of_key rfl key id outside)
    · exact .ok (.ok_of_key rfl key id (Nat.not_lt.mpr inside))
  | ecbEnc | ecbDec => exact endsIn_of_modeCases rfl Nat.not_lt.mpr (ecbCommand_cases h)
  | cbcEnc | cbcDec =>
    exact endsIn_of_modeCases rfl (fun ⟨data, iv⟩ => not_or.mpr ⟨data.not_gt, iv.not_gt⟩) (cbcCommand_cases h)
  | ctrCrypt =>
    exact endsIn_of_modeCases rfl (fun ⟨data, iv⟩ => not_or.mpr ⟨data.not_gt, iv.not_gt⟩) (execCtrCrypt_cases h)

/-- An answer that ends in a next state whichever way a check goes. -/
theorem exists_next_ite {c : Prop} [Decidable c] {x y : Answer} (hx : ∃ t, x = .next t) (hy : ∃ t, y = .next t) :
    ∃ t, (if c then x else y) = .next t := by
  split
  · exact hx
  · exact hy

/-- Every command completes: each of its checks ends in an outcome (60_exceptions.md R231). -/
theorem exec_completes (i : Instr) (s : State) : ∃ t, exec i s = .next t := by
  cases i with
  | keyset => exact exists_next_ite ⟨_, rfl⟩ (exists_next_ite ⟨_, rfl⟩ ⟨_, rfl⟩)
  | encipher | decipher => exact exists_next_ite ⟨_, rfl⟩ ⟨_, rfl⟩
  | blkEnc | blkDec => exact exists_next_ite ⟨_, rfl⟩ (exists_next_ite ⟨_, rfl⟩ ⟨_, rfl⟩)
  | ecbEnc | ecbDec | cbcEnc | cbcDec | ctrCrypt =>
    exact exists_next_ite ⟨_, rfl⟩ (exists_next_ite ⟨_, rfl⟩ (exists_next_ite ⟨_, rfl⟩ ⟨_, rfl⟩))

theorem completeWord_of_ok {w : Word} (h : decode w = .ok i) (s : State) : completeWord w s = exec i s := by
  rw [completeWord, h]

/-- Settles O50: every command completes, in a state of `EndsIn`, and `Ends.unique` leaves no other outcome. -/
theorem firstConditionDecidesTheOutcome : Obligations.FirstConditionDecidesTheOutcome := by
  unfold Obligations.FirstConditionDecidesTheOutcome
  intro w s
  cases word : decode w with
  | error reject =>
    exact ⟨_, completeWord_of_error word s, rfl, fun _ _ => ⟨rfl, rfl⟩, nofun⟩
  | ok i =>
    obtain ⟨t, run⟩ := exec_completes i s
    have ended : EndsIn i s t := exec_endsIn run
    refine ⟨t, (completeWord_of_ok word s).trans run, ended.latch, nofun, ?_⟩
    rintro _ ⟨⟩
    exact ⟨ended.ends, fun _ _ other => ended.ends.unique other⟩

/-- Settles O51: an illegal word writes the outcome alone, and so does a command that ends otherwise than OK
(`EndsIn.eq_complete`). -/
theorem declinedAndFailedChangeNothing : Obligations.DeclinedAndFailedChangeNothing := by
  unfold Obligations.DeclinedAndFailedChangeNothing
  intro w s t run notOk
  cases word : decode w with
  | error reject =>
    rw [completeWord_of_error word] at run
    cases run
    rfl
  | ok i =>
    rw [completeWord_of_ok word] at run
    exact (exec_endsIn run).eq_complete notOk

/-- Without a key a command that needs one ends with NO_KEY and leaves all else as it was (60_exceptions.md R236). -/
theorem exec_noKey (need : needsKey i = true) (noKey : s.status.keyValid = false) :
    exec i s = .next (s.complete .error .noKey) := by
  obtain ⟨t, run⟩ := exec_completes i s
  have ended : EndsIn i s t := exec_endsIn run
  obtain ⟨result, errcode⟩ := (Ends.noKey need noKey).unique ended.ends
  have same : t = s.complete t.status.result t.status.errcode := ended.eq_complete (by simp [result])
  rwa [same, result, errcode] at run

/-- Settles O52: the other commands need a key (`exec_noKey`), and NO_KEY is no end of KEYSET, which needs none. -/
theorem noKeyRefusesEveryOtherCommand : Obligations.NoKeyRefusesEveryOtherCommand := by
  unfold Obligations.NoKeyRefusesEveryOtherCommand
  constructor
  · intro i s other noKey
    exact exec_noKey (needsKey_of_ne_keyset other) noKey
  · intro s t run noKey
    have need : needsKey .keyset = true := (exec_endsIn run).ends.needsKey_of_noKey noKey
    cases need

end Sys2Proof.Machine
end

section
/-! PROOFS. P and S cannot be observed before a KEYSET (70_reset_and_hazards.md R271). -/

namespace Sys2Proof.Machine

variable {s t : State}

theorem withCodec_self (s : State) : s.withCodec s.codec = s := rfl

/-! ### Host accesses commute with any change of P and S (10_state.md R25, R26) -/

theorem regValue_withCodec (r : RegName) (c : Codec) (s : State) : regValue r (s.withCodec c) = regValue r s := by
  cases r <;> rfl

theorem readReg_withCodec (r : RegName) (c : Codec) (s : State) :
    readReg r (s.withCodec c) = (readReg r s).withCodec c := by
  simp only [readReg, regValue_withCodec, apply_ite (State.withCodec · c)]
  rfl

theorem readDmemWord_withCodec (a : Nat) (c : Codec) (s : State) :
    readDmemWord a (s.withCodec c) = (readDmemWord a s).withCodec c := by
  simp only [readDmemWord, apply_ite (State.withCodec · c)]
  rfl

theorem hostRead_withCodec (off : BitVec 15) (c : Codec) (s : State) :
    hostRead off (s.withCodec c) = (hostRead off s).withCodec c := by
  unfold hostRead
  rw [withCodec_dmemBytes]
  cases targetOf s.dmemBytes off with
  | reg r => exact readReg_withCodec r c s
  | dmem a => exact readDmemWord_withCodec a c s
  | reserved => rfl

theorem writeReg_withCodec (r : RegName) (v : Word) (c : Codec) (s : State) :
    writeReg r v (s.withCodec c) = (writeReg r v s).withCodec c := by
  cases r with
  | id | dmemsz => rfl
  | _ =>
    simp only [writeReg, apply_ite (State.withCodec · c)]
    rfl

theorem writeDmemWord_withCodec (a : Nat) (v : Word) (be : BitVec 4) (c : Codec) (s : State) :
    writeDmemWord a v be (s.withCodec c) = (writeDmemWord a v be s).withCodec c := by
  simp only [writeDmemWord, apply_ite (State.withCodec · c)]
  rfl

theorem hostWrite_withCodec (off : BitVec 15) (v : Word) (be : BitVec 4) (c : Codec) (s : State) :
    hostWrite off v be (s.withCodec c) = (hostWrite off v be s).withCodec c := by
  unfold hostWrite
  rw [withCodec_dmemBytes]
  cases targetOf s.dmemBytes off with
  | reg r => simp only [writeReg_withCodec, apply_ite (State.withCodec · c)]
  | dmem a => exact writeDmemWord_withCodec a v be c s
  | reserved => rfl

theorem hostWrite_keyValid (off : BitVec 15) (v : Word) (be : BitVec 4) (s : State) :
    (hostWrite off v be s).status.keyValid = s.status.keyValid := by
  rcases hostWrite_cases off v be s with e | ⟨-, e⟩ | ⟨-, e⟩ | ⟨-, -, e⟩ | ⟨-, r, -, e⟩ | ⟨-, a, -, e⟩ <;> simp [e]

theorem hostRead_keyValid (off : BitVec 15) (s : State) : (hostRead off s).status.keyValid = s.status.keyValid := by
  obtain ⟨w, n, e⟩ := hostRead_cases off s
  simp [e]

/-! ### The three forms of a step of a wait (30_encoding.md R98) -/

theorem waitStep_of_idle (idle : s.latch = none) (polls : Nat) :
    waitStep polls s = .next (s.observe (statusWord s)) := by
  simp [waitStep, idle, pollStatus, hostRead_status]

theorem waitStep_succ_of_busy (busy : s.latch.isSome = true) (k : Nat) :
    waitStep (k + 1) s = .next ((s.observe (statusWord s)).withAgenda (.wait k :: s.agenda)) := by
  simp only [waitStep, if_pos busy, pollStatus, hostRead_status]

theorem waitStep_zero_of_busy (busy : s.latch.isSome = true) :
    waitStep 0 s = coreStep (s.withAgenda (.wait 0 :: s.agenda)) :=
  if_pos busy

/-! ### A turn of the machine without a key -/

/-- The turn `f` on `s` does not depend on P and S: with any other P and S it leads to the same state, but for P and S,
and to the very same state where it leaves KEY_VALID = 1 (70_reset_and_hazards.md R271). -/
def HidesCodec (f : State → Answer) (s : State) : Prop :=
  ∀ t c, f s = .next t →
    ∃ c', f (s.withCodec c) = .next (t.withCodec c') ∧ (t.status.keyValid = true → c' = t.codec)

/-- A turn that leaves KEY_VALID = 0 may carry P and S along or replace them, if nothing else
depends on them. -/
theorem hidesCodec_of_next {f : State → Answer} (noKey : t.status.keyValid = false)
    (next : ∀ c, ∃ c', f (s.withCodec c) = .next (t.withCodec c')) : HidesCodec f s := by
  intro u c run
  obtain ⟨c₀, run₀⟩ := next s.codec
  obtain rfl : u = t.withCodec c₀ := Host.Outcome.next.inj (run.symm.trans run₀)
  obtain ⟨c', run'⟩ := next c
  exact ⟨c', run', fun key => by simp [noKey] at key⟩

/-- A turn that goes on as another turn hides what that one hides. -/
theorem HidesCodec.of_eq {f g : State → Answer} {s' : State} (hides : HidesCodec g s')
    (codec : s'.codec = s.codec) (same : ∀ c, f (s.withCodec c) = g (s'.withCodec c)) : HidesCodec f s := by
  intro t c run
  have here : f s = g s' := calc
    f s = f (s.withCodec s'.codec) := by rw [codec, withCodec_self]
    _ = g s' := same s'.codec
  rw [same c]
  exact hides t c (here.symm.trans run)

section
variable (noKey : s.status.keyValid = false)
include noKey

/-- KEYSET overwrites every entry of P and S from the key bytes alone (40_codec.md R128), or fails without a key. -/
theorem execKeyset_hidesCodec : HidesCodec execKeyset s := by
  intro t c run
  obtain ⟨illegal, rfl⟩ | ⟨legal, outside, rfl⟩ | ⟨legal, inside, rfl⟩ := execKeyset_cases run
  · exact ⟨c, execKeyset_invalidKey illegal, fun key => by simp [noKey] at key⟩
  · exact ⟨c, execKeyset_range legal outside, fun key => by simp [noKey] at key⟩
  · exact ⟨_, execKeyset_ok legal inside, fun _ => rfl⟩

/-- Every command but KEYSET is refused before it reads P or S (60_exceptions.md R236). -/
theorem exec_hidesCodec (i : Instr) : HidesCodec (exec i) s := by
  by_cases keyset : i = .keyset
  · subst keyset
    exact execKeyset_hidesCodec noKey
  · have need : needsKey i = true := needsKey_of_ne_keyset keyset
    exact hidesCodec_of_next (t := s.complete .error .noKey) noKey fun c =>
      ⟨c, exec_noKey (s := s.withCodec c) need noKey⟩

theorem completeWord_hidesCodec (w : Word) : HidesCodec (completeWord w) s := by
  cases word : decode w with
  | error reject =>
    exact hidesCodec_of_next (t := s.complete .error .illegalCmd) noKey fun c => ⟨c, completeWord_of_error word _⟩
  | ok i => exact (exec_hidesCodec noKey i).of_eq rfl fun _ => completeWord_of_ok word _

theorem coreStep_hidesCodec : HidesCodec coreStep s := by
  cases latch : s.latch with
  | none => exact hidesCodec_of_next noKey fun c => ⟨c, coreStep_none latch⟩
  | some l => exact (completeWord_hidesCodec noKey l.word).of_eq rfl fun _ => coreStep_some latch

theorem waitStep_hidesCodec (polls : Nat) : HidesCodec (waitStep polls) s := by
  by_cases busy : s.latch.isSome = true
  · cases polls with
    | zero =>
      exact (coreStep_hidesCodec (s := s.withAgenda (.wait 0 :: s.agenda)) noKey).of_eq rfl fun c =>
        waitStep_zero_of_busy (s := s.withCodec c) busy
    | succ k =>
      exact hidesCodec_of_next (t := (s.observe (statusWord s)).withAgenda (.wait k :: s.agenda)) noKey fun c =>
        ⟨c, waitStep_succ_of_busy (s := s.withCodec c) busy k⟩
  · have idle : s.latch = none := by simpa using busy
    exact hidesCodec_of_next (t := s.observe (statusWord s)) noKey fun c =>
      ⟨c, waitStep_of_idle (s := s.withCodec c) idle polls⟩

/-- A reset replaces P and S, and leaves KEY_VALID = 0 (70_reset_and_hazards.md R270, R271). -/
theorem eventStep_hidesCodec (e : Event) : HidesCodec (eventStep e) s := by
  cases e with
  | write off v be =>
    exact hidesCodec_of_next ((hostWrite_keyValid off v be s).trans noKey) fun c =>
      ⟨c, congrArg Host.Outcome.next (hostWrite_withCodec off v be c s)⟩
  | read off =>
    exact hidesCodec_of_next ((hostRead_keyValid off s).trans noKey) fun c =>
      ⟨c, congrArg Host.Outcome.next (hostRead_withCodec off c s)⟩
  | wait polls => exact waitStep_hidesCodec noKey polls
  | coreTurn => exact coreStep_hidesCodec noKey
  | reset => exact hidesCodec_of_next (t := resetCore s) rfl fun _ => ⟨Codec.afterReset s.draws, rfl⟩

theorem step_hidesCodec : HidesCodec step s := by
  cases agenda : s.agenda with
  | nil => exact (coreStep_hidesCodec noKey).of_eq rfl fun _ => step_nil agenda
  | cons e rest =>
    exact (eventStep_hidesCodec (s := s.withAgenda rest) noKey e).of_eq rfl fun c =>
      step_cons (s := s.withCodec c) agenda

end

/-- Settles O57: of the events of a step only a command reads P and S, and without a key that is KEYSET, which
overwrites them, or a command that ends with NO_KEY (`step_hidesCodec`). -/
theorem unkeyedCipherStateIsUnobservable : Obligations.UnkeyedCipherStateIsUnobservable := by
  unfold Obligations.UnkeyedCipherStateIsUnobservable
  intro s t c noKey run
  exact step_hidesCodec noKey t c run

end Sys2Proof.Machine
end

section
/-! PROOFS. Decoding and encoding agree on every word (30_encoding.md R90 to R92, R95). -/

namespace Sys2Proof

theorem joinCmd_splitCmd (w : Word) : joinCmd (splitCmd w) = w := by
  simp only [joinCmd, splitCmd]
  ext i hi
  simp only [BitVec.getElem_append, BitVec.getElem_extractLsb']
  grind

/-- The opcode map lists every command with its opcode (30_encoding.md R92). -/
theorem opcodeTable_opcodeOf : ∀ p ∈ opcodeTable, p.1 = opcodeOf p.2 := by decide

/-- An entry of the opcode map, looked up, gives the opcode of its command. -/
theorem eq_opcodeOf_of_lookup {opc : BitVec 8} {i : Instr} (h : opcodeTable.lookup opc = some i) :
    opc = opcodeOf i := by
  obtain ⟨before, after, parts, -⟩ := List.lookup_eq_some_iff.mp h
  exact opcodeTable_opcodeOf (opc, i) (by rw [parts]; simp)

/-- The opcodes 0x01 to 0x0A are assigned (30_encoding.md R92). -/
theorem unassigned_of_lookup {opc : BitVec 8} (h : opcodeTable.lookup opc = none) :
    opc = 0x00#8 ∨ 0x0A#8 < opc := by
  have absent : ∀ p ∈ opcodeTable, opc ≠ p.1 := fun p hp => by
    simpa using List.lookup_eq_none_iff.mp h p hp
  simp only [opcodeTable, List.forall_mem_cons] at absent
  bv_omega

/-- What `decode` says of a word: the reserved field is set, the opcode is unassigned, or the word is the encoding of the
command (30_encoding.md R91). -/
theorem decode_cases (w : Word) :
    (w.extractLsb' 8 24 ≠ 0#24 ∧ decode w = .error .reservedBitsSet) ∨
    ((w.extractLsb' 0 8 = 0x00#8 ∨ 0x0A#8 < w.extractLsb' 0 8) ∧ decode w = .error .opcodeUnassigned) ∨
    (∃ i, w = encode i ∧ decode w = .ok i) := by
  by_cases zero : w.extractLsb' 8 24 = 0#24
  · cases entry : opcodeTable.lookup (w.extractLsb' 0 8) with
    | none => exact .inr (.inl ⟨unassigned_of_lookup entry, decode_of_unassigned zero (unassigned_of_lookup entry)⟩)
    | some i =>
      have word : w = encode i := calc
        w = w.extractLsb' 8 24 ++ w.extractLsb' 0 8 := (joinCmd_splitCmd w).symm
        _ = encode i := by rw [zero, eq_opcodeOf_of_lookup entry]; rfl
      exact .inr (.inr ⟨i, word, word ▸ decode_encode i⟩)
  · exact .inl ⟨zero, decode_of_reservedBits zero⟩

theorem eq_encode_of_decode {w : Word} {i : Instr} (h : decode w = .ok i) : w = encode i := by
  obtain ⟨-, e⟩ | ⟨-, e⟩ | ⟨j, word, e⟩ := decode_cases w
  · cases e.symm.trans h
  · cases e.symm.trans h
  · cases e.symm.trans h
    exact word

theorem illegal_of_decode {w : Word} {r : DecodeReject} (h : decode w = .error r) :
    w.extractLsb' 8 24 ≠ 0#24 ∨ w.extractLsb' 0 8 = 0x00#8 ∨ 0x0A#8 < w.extractLsb' 0 8 := by
  obtain ⟨reserved, -⟩ | ⟨unassigned, -⟩ | ⟨i, -, e⟩ := decode_cases w
  · exact .inl reserved
  · exact .inr unassigned
  · cases e.symm.trans h

/-- Settles O2: `decode_encode` one way, and the three cases of `decode_cases` the other. -/
theorem decodeAndEncodeAgree : Obligations.DecodeAndEncodeAgree := by
  unfold Obligations.DecodeAndEncodeAgree
  exact ⟨fun i _ => decode_encode i, fun _ _ => eq_encode_of_decode,
    fun _ => ⟨fun ⟨_, h⟩ => illegal_of_decode h, decode_of_illegal⟩⟩

end Sys2Proof
end

section
/-! PROOFS. The invariant of the core: it holds after reset and every step keeps it (10_state.md sections 2, 3 and 6,
60_exceptions.md sections 1 to 3). -/

namespace Sys2Proof.Machine

variable {s t u : State}

/-! ### What keeps the invariant -/

/-- The invariant says nothing of the agenda, the observations and the draws. -/
theorem Inv.of_same (h : Inv s) (dmemBytes : t.dmemBytes = s.dmemBytes) (regs : t.regs = s.regs)
    (status : t.status = s.status) (codec : t.codec = s.codec) (dmem : t.dmem = s.dmem) (latch : t.latch = s.latch) :
    Inv t := by
  constructor
  · rw [dmemBytes]; exact h.params
  · rw [dmem]; exact h.canonical
  · rw [dmem, dmemBytes]; exact h.inside
  · rw [latch, regs, status]; exact h.latched
  · rw [status]; exact h.errors
  · rw [status, codec]; exact h.keyed
  · rw [status]; exact h.settled
  · rw [status]; exact h.keyless

theorem Inv.withAgenda (h : Inv s) (es : List Event) : Inv (s.withAgenda es) := h.of_same rfl rfl rfl rfl rfl rfl

theorem Inv.observe (h : Inv s) (w : Word) : Inv (s.observe w) := h.of_same rfl rfl rfl rfl rfl rfl

theorem Inv.usedDraws (h : Inv s) (n : Nat) : Inv (s.usedDraws n) := h.of_same rfl rfl rfl rfl rfl rfl

theorem Inv.good (h : Inv s) : s.dmem.good s.dmemBytes := ⟨h.canonical, h.inside⟩

/-- OVR plays no part in the invariant. -/
theorem Inv.withOvr (h : Inv s) (b : Bool) : Inv (s.withStatus (s.status.withOvr b)) :=
  ⟨h.params, h.canonical, h.inside, h.latched, h.errors, h.keyed, h.settled, h.keyless⟩

/-- A memory in its form is all that a write of DMEM has to keep. -/
theorem Inv.withDmem (h : Inv s) {m : Memory} (good : m.good s.dmemBytes) : Inv (s.withDmem m) :=
  ⟨h.params, good.1, good.2, h.latched, h.errors, h.keyed, h.settled, h.keyless⟩

/-- The registers may change while no command is in flight (10_state.md R34). -/
theorem Inv.withRegs (h : Inv s) (idle : s.latch = none) (r : OperandRegs) : Inv (s.withRegs r) :=
  ⟨h.params, h.canonical, h.inside, fun _ full => by simp [idle] at full, h.errors, h.keyed, h.settled, h.keyless⟩

/-- Acceptance latches the registers and clears the outcome (60_exceptions.md R230). -/
theorem Inv.accept (h : Inv s) (w : Word) : Inv (accept w s) :=
  ⟨h.params, h.canonical, h.inside, fun l full => by cases full; exact ⟨rfl, rfl⟩, by simp, h.keyed, by simp, by simp⟩

/-- A state as reset leaves it, whatever P and S (70_reset_and_hazards.md R270, R271). -/
theorem Inv.of_reset (params : Config.dmemBytesAllowed s.dmemBytes = true) (status : s.status = Status.reset)
    (dmem : s.dmem = []) (latch : s.latch = none) : Inv s := by
  constructor
  · exact params
  · rw [dmem]; exact List.Pairwise.nil
  · simp [dmem]
  · simp [latch]
  all_goals simp [status, Status.reset]

/-- Settles O59: reset leaves no key, no outcome, no command in flight and an empty memory. -/
theorem resetMeetsTheInvariant : Obligations.ResetMeetsTheInvariant := by
  unfold Obligations.ResetMeetsTheInvariant
  exact .of_reset (by decide) rfl rfl rfl

/-! ### Completions (60_exceptions.md R232 to R234) -/

theorem Inv.complete_error (h : Inv s) {e : ErrCode} (isError : e ≠ .noError)
    (noKey : e = .noKey → s.status.keyValid = false) : Inv (s.complete .error e) :=
  ⟨h.params, h.canonical, h.inside, nofun, by simpa using isError, h.keyed, by simp, noKey⟩

theorem Inv.complete_declined (h : Inv s) (key : s.status.keyValid = true) : Inv (s.complete .declined .noError) :=
  ⟨h.params, h.canonical, h.inside, nofun, by simp, h.keyed, fun _ => key, by simp⟩

theorem Inv.complete_ok (params : Config.dmemBytesAllowed s.dmemBytes = true) (good : s.dmem.good s.dmemBytes)
    (key : s.status.keyValid = true) (derived : s.codec.derived) : Inv (s.complete .ok .noError) :=
  ⟨params, good.1, good.2, nofun, by simp, fun _ => derived, fun _ => key, by simp⟩

/-! ### Commands -/

section
variable (h : Inv s)
include h

theorem Inv.execKeyset (run : execKeyset s = .next t) : Inv t := by
  obtain ⟨-, rfl⟩ | ⟨-, -, rfl⟩ | ⟨⟨low, high⟩, -, rfl⟩ := execKeyset_cases run
  · exact h.complete_error nofun nofun
  · exact h.complete_error nofun nofun
  · exact .complete_ok h.params h.good rfl
      ⟨_, by rw [read_length]; exact low, by rw [read_length]; exact high, rfl⟩

theorem Inv.pairCommand {f : Codec → Word × Word → Word × Word} (run : pairCommand f s = .next t) : Inv t := by
  obtain ⟨noKey, rfl⟩ | ⟨key, rfl⟩ := pairCommand_cases run
  · exact h.complete_error nofun fun _ => noKey
  · exact .complete_ok h.params h.good key (h.keyed key)

theorem Inv.blockCommand {f : Codec → Block → Block} (run : blockCommand f s = .next t) : Inv t := by
  obtain ⟨noKey, rfl⟩ | ⟨-, -, rfl⟩ | ⟨key, data, rfl⟩ := blockCommand_cases run
  · exact h.complete_error nofun fun _ => noKey
  · exact h.complete_error nofun nofun
  · exact .complete_ok h.params (writeBlock_good h.good data _) key (h.keyed key)

/-- A mode command keeps the invariant if what it leaves in DMEM on OK is in its form: no key, decline, RANGE and OK are
its cases (60_exceptions.md R240). -/
theorem Inv.of_modeCases {bad outside within : Prop}
    (run : (s.status.keyValid = false ∧ t = s.complete .error .noKey) ∨
      (s.status.keyValid = true ∧ bad ∧ t = s.complete .declined .noError) ∨
      (s.status.keyValid = true ∧ ¬ bad ∧ outside ∧ t = s.complete .error .range) ∨
      (s.status.keyValid = true ∧ ¬ bad ∧ within ∧ t = u.complete .ok .noError))
    (params : u.dmemBytes = s.dmemBytes) (status : u.status = s.status) (codec : u.codec = s.codec)
    (good : within → u.dmem.good s.dmemBytes) : Inv t := by
  obtain ⟨noKey, rfl⟩ | ⟨key, -, rfl⟩ | ⟨-, -, -, rfl⟩ | ⟨key, -, data, rfl⟩ := run
  · exact h.complete_error nofun fun _ => noKey
  · exact h.complete_declined key
  · exact h.complete_error nofun nofun
  · rw [← params] at good
    exact .complete_ok (params ▸ h.params) (good data) (status ▸ key) (codec ▸ h.keyed key)

theorem Inv.ecbCommand {f : Codec → Block → Block} (run : ecbCommand f s = .next t) : Inv t :=
  h.of_modeCases (ecbCommand_cases run) rfl rfl rfl fun data => ecbLoop_good _ _ h.good (by omega)

theorem Inv.cbcCommand {pass : Codec → Nat → Nat → Nat → CbcWork → CbcWork}
    (loopGood : ∀ (w : CbcWork) (n a k : Nat) (c : Codec) (d : Nat), w.dmem.good n → a + 8 * k ≤ n →
      (loop k (pass c a d) w).dmem.good n)
    (run : cbcCommand pass s = .next t) : Inv t :=
  h.of_modeCases (cbcCommand_cases run) rfl rfl rfl fun ⟨data, _⟩ => loopGood _ _ _ _ _ _ h.good (by omega)

theorem Inv.execCtrCrypt (run : execCtrCrypt s = .next t) : Inv t :=
  h.of_modeCases (execCtrCrypt_cases run) rfl rfl rfl fun ⟨data, _⟩ => ctrLoop_good _ _ _ _ h.good data le_rfl

theorem Inv.exec {i : Instr} (run : exec i s = .next t) : Inv t := by
  cases i with
  | keyset => exact h.execKeyset run
  | encipher | decipher => exact h.pairCommand run
  | blkEnc | blkDec => exact h.blockCommand run
  | ecbEnc | ecbDec => exact h.ecbCommand run
  | cbcEnc => exact h.cbcCommand (fun _ _ _ _ => cbcEncLoop_good) run
  | cbcDec => exact h.cbcCommand (fun _ _ _ _ => cbcDecLoop_good) run
  | ctrCrypt => exact h.execCtrCrypt run

/-! ### Steps -/

theorem Inv.coreStep (run : coreStep s = .next t) : Inv t := by
  obtain ⟨-, e⟩ | ⟨l, r, -, -, e⟩ | ⟨l, i, -, -, e⟩ := coreStep_cases s <;> rw [e] at run
  · cases run; exact h
  · cases run; exact h.complete_error nofun nofun
  · exact h.exec run

theorem Inv.waitStep {polls : Nat} (run : waitStep polls s = .next t) : Inv t := by
  obtain ⟨-, e⟩ | ⟨-, k, -, e⟩ | ⟨-, -, e⟩ := waitStep_cases polls s <;> rw [e] at run
  · cases run; exact h.observe _
  · cases run; exact (h.observe _).withAgenda _
  · exact (h.withAgenda _).coreStep run

/-- The four lanes of a DMEM word lie in DMEM, since DMEM_BYTES is a multiple of 4 (20_memory.md R64). -/
theorem Inv.writeLanes {off : BitVec 15} {a : Nat} (target : targetOf s.dmemBytes off = .dmem a) (v : Word)
    (be : BitVec 4) : Inv (s.withDmem (loop 4 (writeLane a v be) s.dmem)) := by
  obtain ⟨inside, aligned, -⟩ := targetOf_dmem target
  have size : s.dmemBytes % 4 = 0 := by
    have := h.params
    simp_all [Config.dmemBytesAllowed]
  refine h.withDmem (loop_invariant (fun _ (m : Memory) => m.good s.dmemBytes) 4 _ _ h.good fun j hj m good => ?_)
  exact writeLane_good v be good (by omega)

theorem Inv.hostWrite (off : BitVec 15) (v : Word) (be : BitVec 4) : Inv (hostWrite off v be s) := by
  obtain e | ⟨-, e⟩ | ⟨-, e⟩ | ⟨-, -, e⟩ | ⟨idle, r, -, e⟩ | ⟨-, a, target, e⟩ := hostWrite_cases off v be s <;> rw [e]
  · exact h
  · exact h.withOvr true
  · exact h.withOvr false
  · exact h.accept v
  · exact h.withRegs (by simpa using idle) _
  · exact h.writeLanes target v be

theorem Inv.hostRead (off : BitVec 15) : Inv (hostRead off s) := by
  obtain ⟨w, n, e⟩ := hostRead_cases off s
  rw [e]
  exact (h.observe w).usedDraws n

theorem Inv.resetCore : Inv (resetCore s) := .of_reset h.params rfl rfl rfl

theorem Inv.eventStep {e : Event} (run : eventStep e s = .next t) : Inv t := by
  cases e with
  | write off v be => cases run; exact h.hostWrite off v be
  | read off => cases run; exact h.hostRead off
  | wait polls => exact h.waitStep run
  | coreTurn => exact h.coreStep run
  | reset => cases run; exact h.resetCore

theorem Inv.step (run : step s = .next t) : Inv t := by
  cases agenda : s.agenda with
  | nil => exact h.coreStep (step_nil agenda ▸ run)
  | cons e rest => exact (h.withAgenda rest).eventStep (step_cons agenda ▸ run)

end

/-- Settles O60: `Inv.step`, by the next event and, for a command, its shape. -/
theorem everyStepKeepsTheInvariant : Obligations.EveryStepKeepsTheInvariant := by
  unfold Obligations.EveryStepKeepsTheInvariant
  exact fun _ _ h run => h.step run

end Sys2Proof.Machine
end

section
/-! PROOFS. What a command leaves as it was: registers, cipher state, memory outside its region (10_state.md R22, R27,
30_encoding.md R93, 20_memory.md R84). -/

namespace Sys2Proof.Machine

variable {s t u : State} {i : Instr}

/-! ### The frame of a command -/

/-- What command `i` does not write when it leads from `s` to `t`. -/
structure CommandFrame (i : Instr) (s t : State) : Prop where
  dmemBytes : t.dmemBytes = s.dmemBytes
  ovr : t.status.ovr = s.status.ovr
  agenda : t.agenda = s.agenda
  observed : t.observed = s.observed
  operands : t.regs.addr = s.regs.addr ∧ t.regs.len = s.regs.len ∧ t.regs.ivaddr = s.regs.ivaddr ∧
    t.regs.ivlen = s.regs.ivlen
  pair : i ≠ .encipher → i ≠ .decipher → t.regs.xl = s.regs.xl ∧ t.regs.xr = s.regs.xr
  counter : i ≠ .ctrCrypt → t.regs.ctrLo = s.regs.ctrLo ∧ t.regs.ctrHi = s.regs.ctrHi
  cipher : i ≠ .keyset → t.codec = s.codec ∧ t.status.keyValid = s.status.keyValid
  keyKept : s.status.keyValid = true → t.status.keyValid = true
  outside : s.dmem.sameOutside t.dmem s.dataAddr (writtenBytes i s)
  dmem : writtenBytes i s = 0 → t.dmem = s.dmem

theorem CommandFrame.refl (i : Instr) (s : State) : CommandFrame i s s :=
  ⟨rfl, rfl, rfl, rfl, ⟨rfl, rfl, rfl, rfl⟩, fun _ _ => ⟨rfl, rfl⟩, fun _ => ⟨rfl, rfl⟩, fun _ => ⟨rfl, rfl⟩, id,
    fun _ _ => rfl, fun _ => rfl⟩

/-- The completion itself writes only RESULT, ERRCODE and the latch (60_exceptions.md R231). -/
theorem CommandFrame.complete (h : CommandFrame i s u) (r : Result) (e : ErrCode) :
    CommandFrame i s (u.complete r e) :=
  ⟨h.dmemBytes, h.ovr, h.agenda, h.observed, h.operands, h.pair, h.counter, h.cipher, h.keyKept, h.outside, h.dmem⟩

theorem CommandFrame.usedDraws (h : CommandFrame i s u) (n : Nat) : CommandFrame i s (u.usedDraws n) :=
  ⟨h.dmemBytes, h.ovr, h.agenda, h.observed, h.operands, h.pair, h.counter, h.cipher, h.keyKept, h.outside, h.dmem⟩

/-- A command that writes a part of DMEM keeps to its region. -/
theorem CommandFrame.withDmem {m : Memory} (out : s.dmem.sameOutside m s.dataAddr (writtenBytes i s))
    (writes : writtenBytes i s ≠ 0) : CommandFrame i s (s.withDmem m) :=
  { CommandFrame.refl i s with outside := out, dmem := fun none => absurd none writes }

/-- A mode command writes its buffer when it ends OK: no key, decline, RANGE and OK are its cases
(60_exceptions.md R240). -/
theorem CommandFrame.of_modeCases {bad outside within : Prop}
    (run : (s.status.keyValid = false ∧ t = s.complete .error .noKey) ∨
      (s.status.keyValid = true ∧ bad ∧ t = s.complete .declined .noError) ∨
      (s.status.keyValid = true ∧ ¬ bad ∧ outside ∧ t = s.complete .error .range) ∨
      (s.status.keyValid = true ∧ ¬ bad ∧ within ∧ t = u.complete .ok .noError))
    (frame : ¬ bad → CommandFrame i s u) : CommandFrame i s t := by
  obtain ⟨-, rfl⟩ | ⟨-, -, rfl⟩ | ⟨-, -, -, rfl⟩ | ⟨-, good, -, rfl⟩ := run
  case inr.inr.inr => exact (frame good).complete _ _
  all_goals exact (CommandFrame.refl i s).complete _ _

theorem execKeyset_frame (run : execKeyset s = .next t) : CommandFrame .keyset s t := by
  obtain ⟨-, rfl⟩ | ⟨-, -, rfl⟩ | ⟨-, -, rfl⟩ := execKeyset_cases run
  · exact (CommandFrame.refl _ s).complete _ _
  · exact (CommandFrame.refl _ s).complete _ _
  · exact { CommandFrame.refl .keyset s with cipher := fun other => absurd rfl other, keyKept := fun _ => rfl }

theorem pairCommand_frame {f : Codec → Word × Word → Word × Word} (pair : i = .encipher ∨ i = .decipher)
    (run : pairCommand f s = .next t) : CommandFrame i s t := by
  obtain ⟨-, rfl⟩ | ⟨-, rfl⟩ := pairCommand_cases run
  · exact (CommandFrame.refl i s).complete _ _
  · exact { CommandFrame.refl i s with
      pair := fun notEnc notDec => absurd pair (not_or.mpr ⟨notEnc, notDec⟩) }

theorem blockCommand_frame {f : Codec → Block → Block} (eight : writtenBytes i s = 8)
    (run : blockCommand f s = .next t) : CommandFrame i s t := by
  obtain ⟨-, rfl⟩ | ⟨-, -, rfl⟩ | ⟨-, -, rfl⟩ := blockCommand_cases run
  · exact (CommandFrame.refl i s).complete _ _
  · exact (CommandFrame.refl i s).complete _ _
  · refine ((CommandFrame.withDmem ?_ (by omega)).usedDraws 8).complete _ _
    rw [eight]
    exact writeBlock_sameOutside _ _ _

section
variable (buffer : writtenBytes i s = s.dataLen)
include buffer

theorem ecbCommand_frame {f : Codec → Block → Block} (run : ecbCommand f s = .next t) : CommandFrame i s t := by
  refine .of_modeCases (ecbCommand_cases run) fun good => (CommandFrame.withDmem ?_ (by omega)).usedDraws _
  have length : writtenBytes i s = 8 * (s.dataLen / 8) := by omega
  rw [length]
  exact (ecbLoop_spec _ _ _ _ _).2

theorem cbcCommand_frame {pass : Codec → Nat → Nat → Nat → CbcWork → CbcWork}
    (loopOut : ∀ (c : Codec) (a d n : Nat) (m : Memory) (iv : Block),
      m.sameOutside (loop n (pass c a d) { dmem := m, prev := iv }).dmem a (8 * n))
    (run : cbcCommand pass s = .next t) : CommandFrame i s t := by
  refine .of_modeCases (cbcCommand_cases run) fun good => (CommandFrame.withDmem ?_ (by omega)).usedDraws _
  have length : writtenBytes i s = 8 * (s.dataLen / 8) := by omega
  rw [length]
  exact loopOut _ _ _ _ _ _

end

theorem execCtrCrypt_frame (run : execCtrCrypt s = .next t) : CommandFrame .ctrCrypt s t := by
  refine .of_modeCases (execCtrCrypt_cases run) fun good => ?_
  have out := (ctrLoop_buffer s.codec (s.dmem.readBlock s.ivAddr s.draws) s.regs.counter s.dataAddr s.dataLen
    (s.draws + 8) s.dmem).2
  exact { CommandFrame.refl .ctrCrypt s with
    counter := fun other => absurd rfl other
    outside := out
    dmem := fun none => absurd (Or.inl none) good }

theorem exec_frame (run : exec i s = .next t) : CommandFrame i s t := by
  cases i with
  | keyset => exact execKeyset_frame run
  | encipher => exact pairCommand_frame (.inl rfl) run
  | decipher => exact pairCommand_frame (.inr rfl) run
  | blkEnc | blkDec => exact blockCommand_frame rfl run
  | ecbEnc | ecbDec => exact ecbCommand_frame rfl run
  | cbcEnc => exact cbcCommand_frame rfl (fun c a d n m iv => (cbcEncLoop_spec c a d n m iv).2.1) run
  | cbcDec => exact cbcCommand_frame rfl (fun c a d n m iv => (cbcDecLoop_spec c a d n m iv).2.1) run
  | ctrCrypt => exact execCtrCrypt_frame run

/-- Settles O53: the clauses of `exec_frame` on DMEM, OVR, DMEM_BYTES and the model's own fields. -/
theorem commandsWriteOnlyTheirRegion : Obligations.CommandsWriteOnlyTheirRegion := by
  unfold Obligations.CommandsWriteOnlyTheirRegion
  intro i s t run
  have frame := exec_frame run
  exact ⟨frame.outside, frame.dmem, frame.ovr, frame.agenda, frame.observed, frame.dmemBytes⟩

/-- Settles O54: the clauses of `exec_frame` on the cipher state. -/
theorem onlyKeysetChangesTheCipherState : Obligations.OnlyKeysetChangesTheCipherState := by
  unfold Obligations.OnlyKeysetChangesTheCipherState
  intro i s t run
  have frame := exec_frame run
  exact ⟨frame.cipher, frame.keyKept⟩

end Sys2Proof.Machine
end

section
/-! PROOFS. The cipher state: out of the HOST's reach, and changed only by reset and KEYSET (10_state.md R25 to R27,
20_memory.md R63). -/

namespace Sys2Proof.Machine

variable {s t u : State}

@[simp] theorem hostWrite_codec (off : BitVec 15) (v : Word) (be : BitVec 4) (s : State) :
    (hostWrite off v be s).codec = s.codec := by
  obtain e | ⟨-, e⟩ | ⟨-, e⟩ | ⟨-, -, e⟩ | ⟨-, r, -, e⟩ | ⟨-, a, -, e⟩ := hostWrite_cases off v be s <;> rw [e] <;> rfl

@[simp] theorem hostRead_codec (off : BitVec 15) (s : State) : (hostRead off s).codec = s.codec := by
  obtain ⟨w, n, e⟩ := hostRead_cases off s
  rw [e]
  rfl

/-- Settles O58: no access writes P and S, and both kinds of access commute with any change of them. -/
theorem hostCannotReachTheCipherState : Obligations.HostCannotReachTheCipherState := by
  unfold Obligations.HostCannotReachTheCipherState
  exact fun s c off v be => ⟨hostWrite_codec off v be s, hostRead_codec off s, hostWrite_withCodec off v be c s,
    hostRead_withCodec off c s⟩

/-- Cores `s` and `t` have the same P, S and KEY_VALID. -/
def SameCipher (s t : State) : Prop := t.codec = s.codec ∧ t.status.keyValid = s.status.keyValid

/-- The CORE's turn changes P, S or KEY_VALID only with the command word of KEYSET latched (10_state.md R27). -/
theorem coreStep_cipher (run : coreStep s = .next t) :
    SameCipher s t ∨ ∃ l, s.latch = some l ∧ l.word = encode .keyset := by
  obtain ⟨-, e⟩ | ⟨l, r, -, -, e⟩ | ⟨l, i, latch, word, e⟩ := coreStep_cases s <;> rw [e] at run
  · cases run; exact .inl ⟨rfl, rfl⟩
  · cases run; exact .inl ⟨rfl, rfl⟩
  · by_cases keyset : i = .keyset
    · exact .inr ⟨l, latch, keyset ▸ eq_encode_of_decode word⟩
    · exact .inl ((exec_frame run).cipher keyset)

/-- Settles O55: an access, a poll or an idle turn changes nothing of the cipher state, and a turn of the CORE is
`coreStep_cipher`. -/
theorem stepChangesCipherStateOnlyByKeyset : Obligations.StepChangesCipherStateOnlyByKeyset := by
  unfold Obligations.StepChangesCipherStateOnlyByKeyset
  intro s t run changed
  have notSame : ¬ SameCipher s t := not_and_or.mpr changed
  obtain ⟨off, v, be, rest, -, e⟩ | ⟨off, rest, -, e⟩ | ⟨polls, rest, agenda, e⟩ | ⟨rest, agenda, -⟩ |
    ⟨rest, agenda, e⟩ | ⟨agenda, e⟩ := step_cases s
  · cases e.symm.trans run
    exact absurd ⟨hostWrite_codec _ _ _ _, hostWrite_keyValid _ _ _ _⟩ notSame
  · cases e.symm.trans run
    exact absurd ⟨hostRead_codec _ _, hostRead_keyValid _ _⟩ notSame
  · obtain ⟨-, e'⟩ | ⟨-, k, -, e'⟩ | ⟨-, rfl, e'⟩ := waitStep_cases polls (s.withAgenda rest)
    · cases (e.trans e').symm.trans run
      exact absurd ⟨rfl, rfl⟩ notSame
    · cases (e.trans e').symm.trans run
      exact absurd ⟨rfl, rfl⟩ notSame
    · obtain ⟨l, latch, word⟩ := (coreStep_cipher ((e.trans e').symm.trans run)).resolve_left notSame
      exact .inr ⟨l, _, latch, word, .inr (.inr ⟨⟨rest, agenda⟩, rfl⟩)⟩
  · exact .inl ⟨rest, agenda⟩
  · obtain ⟨l, latch, word⟩ := (coreStep_cipher (e.symm.trans run)).resolve_left notSame
    exact .inr ⟨l, rest, latch, word, .inr (.inl agenda)⟩
  · obtain ⟨l, latch, word⟩ := (coreStep_cipher (e.symm.trans run)).resolve_left notSame
    exact .inr ⟨l, [], latch, word, .inl ⟨agenda, rfl⟩⟩

end Sys2Proof.Machine
end

section
/-! PROOFS. The host window register by register: the RW registers, STATUS, and every access while BUSY = 1
(10_state.md R22, R24; 20_memory.md R67, R74). -/

namespace Sys2Proof.Machine

variable {s t : State} {off : BitVec 15} {r : RegName}

/-! ### Registers and their offsets (10_state.md R21) -/

/-- The first twelve words of the window are the registers (10_state.md R21). -/
theorem targetOf_register (n : Nat) (h : 4 * off.toNat < 0x30) :
    ∃ r, regOffset r = 4 * off.toNat ∧ targetOf n off = .reg r := by
  obtain ⟨r, place, entry⟩ : ∃ r, regOffset r = 4 * off.toNat ∧ regAt (4 * off.toNat) = some r := by
    have word : off.toNat < 12 := by omega
    generalize off.toNat = k at word
    interval_cases k <;> exact ⟨_, rfl, rfl⟩
  have block : byteOffset off < 0x10000 := by
    simp only [byteOffset]
    omega
  exact ⟨r, place, by rw [targetOf, if_pos block, byteOffset, entry]⟩

theorem cmd_or_rwReg_of_regOffset (h : regOffset r = 0x00 ∨ 0x08 ≤ regOffset r ∧ regOffset r ≤ 0x24) :
    r = .cmd ∨ rwReg r = true := by
  revert h
  cases r <;> decide

theorem id_or_dmemsz_of_regOffset (h : 0x28 ≤ regOffset r) : r = .id ∨ r = .dmemsz := by
  revert h
  cases r <;> decide

theorem volatileReg_of_regOffset (h : 0x18 ≤ regOffset r ∧ regOffset r ≤ 0x24) : volatileReg r = true := by
  revert h
  cases r <;> decide

/-! ### Reads -/

theorem hostRead_of_not_volatile (target : targetOf s.dmemBytes off = .reg r) (stable : volatileReg r = false) :
    hostRead off s = s.observe (regValue r s) :=
  (hostRead_of_targetOf_reg target).trans (readReg_of_not_volatile stable s)

/-- An idle core returns the value of any register (20_memory.md R67). -/
theorem hostRead_of_idle (idle : s.latch = none) (target : targetOf s.dmemBytes off = .reg r) :
    hostRead off s = s.observe (regValue r s) := by
  rw [hostRead_of_targetOf_reg target]
  simp [readReg, idle]

theorem readReg_of_volatile (busy : s.latch.isSome = true) (volatile : volatileReg r = true) :
    readReg r s = readFree s :=
  if_pos (by rw [State.busy, busy, volatile]; rfl)

theorem hostRead_dmem_of_busy {a : Nat} (busy : s.latch.isSome = true) (target : targetOf s.dmemBytes off = .dmem a) :
    hostRead off s = readFree s := by
  simp [hostRead, target, readDmemWord, busy]

/-- Settles O20: `hostRead_cases`. -/
theorem readsHaveNoSideEffects : Obligations.ReadsHaveNoSideEffects := by
  unfold Obligations.ReadsHaveNoSideEffects
  exact fun s off => hostRead_cases off s

/-! ### Writes -/

theorem writeReg_rw_of_idle (idle : s.latch = none) (rw : rwReg r = true) (v : Word) :
    writeReg r v s = s.withRegs (s.regs.write r v) := by
  cases r with
  | cmd | status | id | dmemsz => cases rw
  | _ => simp [writeReg, idle]

theorem hostWrite_rw_of_idle (idle : s.latch = none) (target : targetOf s.dmemBytes off = .reg r)
    (rw : rwReg r = true) (v : Word) : hostWrite off v 0b1111#4 s = s.withRegs (s.regs.write r v) := by
  rw [hostWrite_of_targetOf_reg target, if_pos rfl, writeReg_rw_of_idle idle rw]

/-- A busy core drops a write of CMD or of an RW register (20_memory.md R67). -/
theorem writeReg_of_busy (busy : s.latch.isSome = true) (h : r = .cmd ∨ rwReg r = true) (v : Word) :
    writeReg r v s = dropAccess s := by
  cases r with
  | status | id | dmemsz => simp [rwReg] at h
  | _ => exact if_pos busy

theorem hostWrite_dmem_of_busy {a : Nat} (busy : s.latch.isSome = true) (target : targetOf s.dmemBytes off = .dmem a)
    (v : Word) (be : BitVec 4) : hostWrite off v be s = dropAccess s := by
  simp [hostWrite, target, writeDmemWord, busy]

/-- A full-width write of STATUS clears OVR if bit 16 is 1, and does nothing else, at any time (10_state.md R24). -/
theorem hostWrite_status (v : Word) (s : State) :
    hostWrite 1#15 v 0b1111#4 s = if v.getLsbD 16 then s.withStatus (s.status.withOvr false) else s := by
  have target : targetOf s.dmemBytes 1#15 = .reg .status := rfl
  rw [hostWrite_of_targetOf_reg target, if_pos rfl, writeReg]

/-- Settles O14: bit 16 picks the branch of `hostWrite_status`. -/
theorem statusWriteClearsOnlyOvr : Obligations.StatusWriteClearsOnlyOvr := by
  unfold Obligations.StatusWriteClearsOnlyOvr
  intro s v
  rw [hostWrite_status]
  exact ⟨fun isSet => if_pos isSet, fun clear => if_neg (by rw [clear]; nofun)⟩

/-- Settles O12: a write stores and a read returns the register of the offset; `exec_frame` for the commands. -/
theorem operandRegistersHoldTheirValue : Obligations.OperandRegistersHoldTheirValue := by
  unfold Obligations.OperandRegistersHoldTheirValue
  refine ⟨fun s v idle => ?_, fun s idle => ?_, fun i s t run => ?_⟩
  · have store (off : BitVec 15) (r : RegName) (target : targetOf s.dmemBytes off = .reg r) (rw : rwReg r = true) :=
      hostWrite_rw_of_idle idle target rw v
    exact ⟨store 2 .addr rfl rfl, store 3 .len rfl rfl, store 4 .ivaddr rfl rfl, store 5 .ivlen rfl rfl,
      store 6 .ctrLo rfl rfl, store 7 .ctrHi rfl rfl, store 8 .xl rfl rfl, store 9 .xr rfl rfl⟩
  · have load (off : BitVec 15) (r : RegName) (target : targetOf s.dmemBytes off = .reg r) :=
      hostRead_of_idle idle target
    exact ⟨load 2 .addr rfl, load 3 .len rfl, load 4 .ivaddr rfl, load 5 .ivlen rfl, load 6 .ctrLo rfl,
      load 7 .ctrHi rfl, load 8 .xl rfl, load 9 .xr rfl⟩
  · have frame := exec_frame run
    exact ⟨frame.operands, frame.pair, frame.counter⟩

/-! ### The word of STATUS (10_state.md R24) -/

/-- Settles O13: the word is the concatenation of its fields, each cut out at its place. -/
theorem statusWordLayout : Obligations.StatusWordLayout := by
  unfold Obligations.StatusWordLayout
  refine fun s => ⟨hostRead_status s, ?_⟩
  simp (disch := decide) only [statusWord, BitVec.extractLsb'_append_eq_of_le,
    BitVec.extractLsb'_append_eq_of_add_le, BitVec.extractLsb'_eq_self, Nat.reduceSub, true_and, and_true]
  refine ⟨?_, ?_⟩
  · cases s.status.result <;> rfl
  · cases s.status.errcode <;> rfl

theorem statusWord_busy (s : State) : (statusWord s).getLsbD 0 = s.busy := by
  simp only [statusWord, BitVec.getLsbD_append]
  simp

/-! ### Accesses while BUSY = 1 (20_memory.md R67) -/

section
variable (busy : s.latch.isSome = true)
include busy

theorem hostWrite_of_busy_register (place : 4 * off.toNat = 0x00 ∨ 0x08 ≤ 4 * off.toNat ∧ 4 * off.toNat ≤ 0x24)
    (v : Word) : hostWrite off v 0b1111#4 s = dropAccess s := by
  obtain ⟨r, offset, target⟩ := targetOf_register s.dmemBytes (off := off) (by omega)
  rw [hostWrite_of_targetOf_reg target, if_pos rfl]
  exact writeReg_of_busy busy (cmd_or_rwReg_of_regOffset (by rwa [offset])) v

theorem hostRead_of_busy_volatile (place : 0x18 ≤ 4 * off.toNat ∧ 4 * off.toNat ≤ 0x24) :
    hostRead off s = readFree s := by
  obtain ⟨r, offset, target⟩ := targetOf_register s.dmemBytes (off := off) (by omega)
  rw [hostRead_of_targetOf_reg target]
  exact readReg_of_volatile busy (volatileReg_of_regOffset (by rwa [offset]))

end

/-- The RO registers and the reserved words ignore writes, at any time (10_state.md R31, 20_memory.md R65). -/
theorem hostWrite_readOnly
    (place : 0x28 ≤ 4 * off.toNat ∧ 4 * off.toNat < 0x10000 ∨ 0x10000 + s.dmemBytes ≤ 4 * off.toNat) (v : Word)
    (be : BitVec 4) : hostWrite off v be s = s := by
  by_cases register : 4 * off.toNat < 0x30
  · obtain ⟨r, offset, target⟩ := targetOf_register s.dmemBytes register
    obtain rfl | rfl := id_or_dmemsz_of_regOffset (r := r) (by omega)
    · exact hostWrite_eq_self_of_writeReg target rfl be
    · exact hostWrite_eq_self_of_writeReg target rfl be
  · exact hostWrite_of_targetOf_reserved (targetOf_reserved (by omega)) v be

/-- Settles O19, clause by clause: which word of the window the offset is, and what a busy core does with it. -/
theorem busyAccesses : Obligations.BusyAccesses := by
  unfold Obligations.BusyAccesses
  intro s off v be busy
  have load (off : BitVec 15) (r : RegName) (target : targetOf s.dmemBytes off = .reg r)
      (stable : volatileReg r = false) := hostRead_of_not_volatile target stable
  refine ⟨fun place full => ?_, fun window => ?_, fun place full => ?_, fun place => hostWrite_readOnly place v be,
    fun place => ?_, load 0 .cmd rfl rfl, load 1 .status rfl rfl, load 2 .addr rfl rfl, load 3 .len rfl rfl,
    load 4 .ivaddr rfl rfl, load 5 .ivlen rfl rfl, load 10 .id rfl rfl, load 11 .dmemsz rfl rfl,
    (statusWord_busy s).trans busy⟩
  · exact full ▸ hostWrite_of_busy_register busy place v
  · exact hostWrite_dmem_of_busy busy (targetOf_dmemWord _ off window) v be
  · obtain rfl : off = 1#15 := by bv_omega
    exact full ▸ hostWrite_status v s
  · obtain register | window := place
    · exact hostRead_of_busy_volatile busy register
    · exact hostRead_dmem_of_busy busy (targetOf_dmemWord _ off window)

end Sys2Proof.Machine
end

section
/-! PROOFS. The step by the next event (60_exceptions.md R231, 30_encoding.md R98), and reset (70_reset_and_hazards.md
R270). -/

namespace Sys2Proof.Machine

variable {s t : State}

/-- Settles O8: `step_of_coreNext`, and the two forms of the completion of a word. -/
theorem stepRunsTheDecodedCommand : Obligations.StepRunsTheDecodedCommand := by
  unfold Obligations.StepRunsTheDecodedCommand
  intro s l rest latch next
  have turn : step s = completeWord l.word (s.withAgenda rest) := step_of_coreNext latch next
  exact ⟨turn, fun i word => turn.trans (completeWord_of_ok word _),
    fun r word => turn.trans (completeWord_of_error word _)⟩

/-- Settles O9: `step_cons`, with the forms of a step of a wait and of an idle turn. -/
theorem stepTakesTheNextEvent : Obligations.StepTakesTheNextEvent := by
  unfold Obligations.StepTakesTheNextEvent
  refine ⟨fun s off v be rest agenda => step_cons agenda, fun s off rest agenda => step_cons agenda,
    fun s polls rest idle agenda => ?_, fun s polls rest busy agenda => ?_, fun s rest idle agenda => ?_,
    fun s idle agenda => ?_⟩
  · exact (step_cons agenda).trans (waitStep_of_idle (s := s.withAgenda rest) idle polls)
  · exact (step_cons agenda).trans (waitStep_succ_of_busy (s := s.withAgenda rest) busy polls)
  · exact (step_cons agenda).trans (coreStep_none (s := s.withAgenda rest) idle)
  · exact (step_nil agenda).trans (coreStep_none idle)

theorem decode_of_decodeTableWord {nbits w : Nat} {i : Instr} (h : decodeTableWord nbits w = some i) :
    decode (tableWord nbits w) = .ok i := by
  unfold decodeTableWord at h
  split at h
  case h_1 j word => rw [word, Option.some.inj h]
  case h_2 => cases h

/-- The turn right after an acceptance completes the accepted word (60_exceptions.md R230, R231). -/
theorem step_accept_coreTurn (w : Word) (s : State) :
    step ((accept w s).withAgenda (.coreTurn :: s.agenda)) = completeWord w (accept w s) := calc
  _ = eventStep .coreTurn (accept w s) := step_cons rfl
  _ = completeWord w (accept w s) := coreStep_some (l := ⟨w, s.regs⟩) (accept_latch s w)

/-- Settles O10: `withFetchWord` is acceptance with the CORE's turn first. -/
theorem fetchedWordRunsNext : Obligations.FetchedWordRunsNext := by
  unfold Obligations.FetchedWordRunsNext
  exact fun s nbits w i row =>
    (step_accept_coreTurn (tableWord nbits w) s).trans (completeWord_of_ok (decode_of_decodeTableWord row) _)

theorem statusWord_of_reset (status : s.status = Status.reset) (idle : s.latch = none) : statusWord s = 0#32 := by
  rw [statusWord, status, State.busy, idle]
  rfl

/-- Settles O56: the fields of `resetCore`, and the reads of CMD, ID and DMEMSZ at any time. -/
theorem resetFromAnyState : Obligations.ResetFromAnyState := by
  unfold Obligations.ResetFromAnyState
  intro s rest agenda
  have seen (off : BitVec 15) (r : RegName) (target : targetOf s.dmemBytes off = .reg r)
      (stable : volatileReg r = false) :=
    congrArg State.observed (hostRead_of_not_volatile (s := resetCore (s.withAgenda rest)) target stable)
  exact ⟨resetCore (s.withAgenda rest), step_cons agenda, statusWord_of_reset rfl rfl, seen 0 .cmd rfl rfl, rfl,
    seen 10 .id rfl rfl, seen 11 .dmemsz rfl rfl, rfl, fun _ => rfl, rfl, rfl, rfl⟩

end Sys2Proof.Machine
end

section
/-! PROOFS. The canonical form of data memory: one list for one content (20_memory.md R62, R75). -/

namespace Sys2Proof.Machine

@[simp] theorem get?_cons_self (k : Nat) (v : Byte) (m : Memory) : Memory.get? ((k, v) :: m) k = some v := if_pos rfl

/-- A memory whose addresses all lie above `a` holds nothing at `a`. -/
theorem get?_eq_none_of_forall_lt {m : Memory} {a : Nat} (above : ∀ c ∈ m, a < c.1) : m.get? a = none := by
  induction m with
  | nil => rfl
  | cons c m ih =>
    obtain ⟨k, v⟩ := c
    obtain ⟨first, rest⟩ := List.forall_mem_cons.mp above
    rw [get?_cons, if_neg (Nat.ne_of_gt first), ih rest]

/-- The lowest address of a memory is not below that of another one that holds the same. -/
theorem not_lt_of_get?_eq {k k' : Nat} {v v' : Byte} {m m' : Memory} (above : ∀ c ∈ m', k' < c.1)
    (same : Memory.get? ((k, v) :: m) k = Memory.get? ((k', v') :: m') k) : ¬ k < k' := by
  intro lower
  have absent : Memory.get? ((k', v') :: m') k = none :=
    get?_eq_none_of_forall_lt (List.forall_mem_cons.mpr ⟨lower, fun c hc => Nat.lt_trans lower (above c hc)⟩)
  simp [absent] at same

/-- Memories in canonical form that hold the same start with the same cell, the lowest, and their rests hold the same. -/
theorem eq_of_get?_eq {m m' : Memory} (h : m.wf) (h' : m'.wf) (same : ∀ a, m.get? a = m'.get? a) : m = m' := by
  induction m generalizing m' with
  | nil =>
    cases m' with
    | nil => rfl
    | cons c' m' =>
      obtain ⟨k', v'⟩ := c'
      simpa using same k'
  | cons c m ih =>
    obtain ⟨k, v⟩ := c
    cases m' with
    | nil => simpa using same k
    | cons c' m' =>
      obtain ⟨k', v'⟩ := c'
      obtain ⟨above, tail⟩ := List.pairwise_cons.mp h
      obtain ⟨above', tail'⟩ := List.pairwise_cons.mp h'
      obtain rfl : k = k' := by
        have notBelow := not_lt_of_get?_eq above' (same k)
        have notAbove := not_lt_of_get?_eq above (same k').symm
        omega
      obtain rfl : v = v' := by simpa using same k
      rw [ih tail tail' fun a => ?_]
      by_cases first : k = a
      · subst first
        rw [get?_eq_none_of_forall_lt above, get?_eq_none_of_forall_lt above']
      · simpa [get?_cons, first] using same a

/-- Settles O22: `eq_of_get?_eq`, cell by cell. -/
theorem equalMemoriesAreEqualData : Obligations.EqualMemoriesAreEqualData := by
  unfold Obligations.EqualMemoriesAreEqualData
  exact fun _ _ => eq_of_get?_eq

end Sys2Proof.Machine
end

section
/-! PROOFS. The INIT table (10_state.md R32, R33). -/

namespace Sys2Proof.Machine

/-- Settles O23: the layout by `initCodec_P` and `initCodec_S`, the check values by evaluation of the fixed table. -/
theorem initTableLayout : Obligations.InitTableLayout := by
  unfold Obligations.InitTableLayout
  exact ⟨initCodec_P, initCodec_S, by decide +kernel, by decide +kernel, by decide +kernel, by decide +kernel⟩

end Sys2Proof.Machine
end

section
/-! PROOFS. Encipher and Decipher as chains of sixteen rounds (40_codec.md R123, R124). -/

namespace Sys2Proof.Machine

variable {c : Codec} {key : Nat → Nat} {x : Nat → Word}

/-- `x k` is the half block that round `k` reads, with subkey `key k`, for the 16 rounds. -/
def IsChain (c : Codec) (key : Nat → Nat) (x : Nat → Word) : Prop :=
  ∀ k, 1 ≤ k → k ≤ 16 → x (k + 1) = roundStep c (x (k - 1)) (x k) (key k)

/-- Two rounds of a chain. -/
theorem IsChain.pair (chain : IsChain c key x) {m : Nat} (hm : m < 8) :
    roundStep c (x (2 * m)) (x (2 * m + 1)) (key (2 * m + 1)) = x (2 * m + 2) ∧
      roundStep c (x (2 * m + 1)) (x (2 * m + 2)) (key (2 * m + 2)) = x (2 * m + 3) :=
  ⟨(chain (2 * m + 1) (by omega) (by omega)).symm, (chain (2 * m + 2) (by omega) (by omega)).symm⟩

/-- A loop whose passes are pairs of rounds runs through the chain. -/
theorem IsChain.loop (chain : IsChain c key x) (pass : Nat → Word × Word → Word × Word)
    (rounds : ∀ m < 8, ∀ l r, pass m (l, r) = (roundStep c l (roundStep c r l (key (2 * m + 1))) (key (2 * m + 2)),
      roundStep c r l (key (2 * m + 1)))) : loop 8 pass (x 1, x 0) = (x 17, x 16) := by
  refine loop_invariant (fun m y => y = (x (2 * m + 1), x (2 * m))) 8 pass _ rfl ?_
  rintro m hm y rfl
  obtain ⟨first, second⟩ := chain.pair hm
  rw [rounds m hm, first, second]
  rfl

/-- Settles O26: the passes of Encipher are the pairs of rounds with subkeys in rising order. -/
theorem encipherIsSixteenRounds : Obligations.EncipherIsSixteenRounds := by
  unfold Obligations.EncipherIsSixteenRounds
  intro c l r x start first chain
  have rounds : loop 8 (encipherPair c) (x 1, x 0) = (x 17, x 16) :=
    IsChain.loop (key := id) chain (encipherPair c) fun m _ => encipherPair_eq c m
  rw [encipher_eq, subkey_eq_getElem c (i := 0) (by decide), subkey_eq_getElem c (i := 17) (by decide), ← first,
    ← start, rounds]
  rfl

/-- Settles O27: the passes of Decipher are the pairs of rounds with subkeys in falling order. -/
theorem decipherIsTheMirrorImage : Obligations.DecipherIsTheMirrorImage := by
  unfold Obligations.DecipherIsTheMirrorImage
  intro c l r x start first chain
  have rounds : loop 8 (decipherPair c) (x 1, x 0) = (x 17, x 16) := by
    refine IsChain.loop (key := fun k => 17 - k) chain (decipherPair c) fun m hm l r => ?_
    have upper : 17 - (2 * m + 1) = 16 - 2 * m := by omega
    have lower : 17 - (2 * m + 2) = 16 - 2 * m - 1 := by omega
    simp only [decipherPair_eq, upper, lower]
  rw [decipher_eq, subkey_eq_getElem c (i := 17) (by decide), subkey_eq_getElem c (i := 0) (by decide), ← first,
    ← start, rounds]
  rfl

end Sys2Proof.Machine
end

section
/-! PROOFS. The commands that end OK: KEYSET, the pair and block commands, ECB and CBC (40_codec.md R130 to R137,
41_ecb.md R162, R163, 42_cbc.md R182, R183). -/

namespace Sys2Proof.Machine

variable {s : State}

/-- Settles O32: the state of `execKeyset_ok`, whose key is what memory reads at ADDR. -/
theorem keysetLoadsTheKey : Obligations.KeysetLoadsTheKey := by
  unfold Obligations.KeysetLoadsTheKey
  intro s low high data
  refine ⟨s.dmem.read s.dataAddr s.dataLen s.draws, read_length _ _ _ _, fun k hk => ?_, execKeyset_ok ⟨low, high⟩ data⟩
  rw [read_getElem?, if_pos hk]

/-! ### Pairs -/

/-- ENCIPHER and DECIPHER with a key complete (40_codec.md R134, R135). -/
theorem pairCommand_ok (f : Codec → Word × Word → Word × Word) (key : s.status.keyValid = true) :
    pairCommand f s = .next ((s.withRegs (s.regs.withPair (f s.codec s.regs.pair))).complete .ok .noError) := by
  rw [pairCommand, if_neg (by simp [key]), finish]

/-- Settles O35: `pairCommand_ok` for Encipher. -/
theorem encipherCommand : Obligations.EncipherCommand := by
  unfold Obligations.EncipherCommand
  exact fun s key => pairCommand_ok encipher key

/-- Settles O36: `pairCommand_ok` for Decipher. -/
theorem decipherCommand : Obligations.DecipherCommand := by
  unfold Obligations.DecipherCommand
  exact fun s key => pairCommand_ok decipher key

/-- A pair command, then the one that undoes its transform, accepted with any command word (40_codec.md R126, R134). -/
theorem pairCommand_roundTrip {f g : Codec → Word × Word → Word × Word} (undo : ∀ c x, g c (f c x) = x) (w : Word)
    (key : s.status.keyValid = true) :
    ∃ t u, pairCommand f s = .next t ∧ pairCommand g (accept w t) = .next u ∧ u.regs = s.regs := by
  refine ⟨_, _, pairCommand_ok f key, pairCommand_ok g key, ?_⟩
  change (s.regs.withPair (f s.codec s.regs.pair)).withPair (g s.codec (f s.codec s.regs.pair)) = s.regs
  rw [undo]
  rfl

/-- Settles O37: each of Encipher and Decipher undoes the other, so both orders are `pairCommand_roundTrip`. -/
theorem encipherThenDecipherRestores : Obligations.EncipherThenDecipherRestores := by
  unfold Obligations.EncipherThenDecipherRestores
  exact fun s key =>
    ⟨pairCommand_roundTrip decipher_encipher _ key, pairCommand_roundTrip encipher_decipher _ key⟩

/-! ### Blocks -/

/-- BLK_ENC and BLK_DEC with a key and the block inside DMEM complete (40_codec.md R136, R137). -/
theorem blockCommand_ok (f : Codec → Block → Block) (key : s.status.keyValid = true)
    (data : s.dataAddr + 8 ≤ s.dmemBytes) :
    blockCommand f s = .next (((s.withDmem (s.dmem.writeBlock s.dataAddr
      (f s.codec (s.dmem.readBlock s.dataAddr s.draws)))).usedDraws 8).complete .ok .noError) := by
  rw [blockCommand, if_neg (by simp [key]), if_neg (by omega), finish]

/-- Settles O38: the state of `blockCommand_ok`, whose memory holds the block written and the rest as it was. -/
theorem blockCommandsTransformTheBlock : Obligations.BlockCommandsTransformTheBlock := by
  unfold Obligations.BlockCommandsTransformTheBlock
  exact fun s key data =>
    ⟨⟨_, blockCommand_ok blockEnc key data, writeBlock_holds _ _ _, writeBlock_sameOutside _ _ _⟩,
      ⟨_, blockCommand_ok blockDec key data, writeBlock_holds _ _ _, writeBlock_sameOutside _ _ _⟩⟩

/-! ### Buffers of whole blocks -/

/-- The blocks of the buffer cover it. -/
theorem blocks_mul {len : Nat} (whole : len % 8 = 0) : 8 * (len / 8) = len := by omega

/-- Settles O39: the state of `ecbCommand_ok`, whose memory is that of `ecbLoop_spec`. -/
theorem ecbTransformsEveryBlock : Obligations.EcbTransformsEveryBlock := by
  unfold Obligations.EcbTransformsEveryBlock
  intro s key nonempty whole data
  have spec (f : Codec → Block → Block) := ecbLoop_spec (f s.codec) s.dataAddr s.draws (s.dataLen / 8) s.dmem
  simp only [blocks_mul whole] at spec
  exact ⟨⟨_, ecbCommand_ok blockEnc key nonempty whole data, spec blockEnc⟩,
    ⟨_, ecbCommand_ok blockDec key nonempty whole data, spec blockDec⟩⟩

section
variable (c : Codec) (m : Memory) (a d : Nat) (iv : Block) (i : Nat)

theorem cbcPrev_eq_ite : cbcPrev c m a d iv i = if i = 0 then iv else cbcCipher c m a d iv (i - 1) := by
  cases i <;> rfl

theorem cbcSaved_eq_ite :
    cbcSaved m a d iv i = if i = 0 then iv else m.readBlock (a + 8 * (i - 1)) (d + 8 * (i - 1)) := by
  cases i <;> rfl

end

/-- Settles O42: the state of `cbcCommand_ok`, whose memory holds the ciphertext `cbcCipher`. -/
theorem cbcEncChains : Obligations.CbcEncChains := by
  unfold Obligations.CbcEncChains
  intro s key nonempty whole eight data ivData
  obtain ⟨held, out, -⟩ :=
    cbcEncLoop_spec s.codec s.dataAddr (s.draws + 8) (s.dataLen / 8) s.dmem (s.dmem.readBlock s.ivAddr s.draws)
  rw [blocks_mul whole] at out
  refine ⟨_, _, cbcCommand_ok cbcEncBlock key nonempty whole eight data ivData, fun i hi => ⟨held i hi, ?_⟩, out⟩
  rw [← cbcPrev_eq_ite]
  exact cbcCipher_eq _ _ _ _ _ _

/-- Settles O43: the state of `cbcCommand_ok`, whose memory is that of `cbcDecLoop_spec`. -/
theorem cbcDecChains : Obligations.CbcDecChains := by
  unfold Obligations.CbcDecChains
  intro s key nonempty whole eight data ivData
  obtain ⟨held, out, -⟩ :=
    cbcDecLoop_spec s.codec s.dataAddr (s.draws + 8) (s.dataLen / 8) s.dmem (s.dmem.readBlock s.ivAddr s.draws)
  rw [blocks_mul whole] at out
  simp only [cbcSaved_eq_ite] at held
  exact ⟨_, cbcCommand_ok cbcDecBlock key nonempty whole eight data ivData, held, out⟩

end Sys2Proof.Machine
end

section
/-! PROOFS. CTR over a buffer cut at a block boundary (43_ctr.md R207). -/

namespace Sys2Proof.Machine

/-! ### Written bytes are read without draws (20_memory.md R75) -/

theorem byteAt_of_isSome {m : Memory} {a : Nat} (h : (m.get? a).isSome) (d d' : Nat) : m.byteAt a d = m.byteAt a d' := by
  obtain ⟨v, hv⟩ := Option.isSome_iff_exists.mp h
  rw [byteAt_of_some hv, byteAt_of_some hv]

theorem readBlock_of_written {m : Memory} {a : Nat} (h : m.written a 8) (d d' : Nat) :
    m.readBlock a d = m.readBlock a d' :=
  readBlock_of_holds (holds_of_written h) d

/-- A region apart from the one that was written, itself written before, reads as it did, whatever the draws. -/
theorem readBlock_of_apart {m m' : Memory} {a n b : Nat} (out : m.sameOutside m' a n) (away : apart b 8 a n)
    (h : m.written b 8) (d d' : Nat) : m'.readBlock b d' = m.readBlock b d := by
  unfold apart at away
  rw [readBlock_congr (fun k hk => out (b + k) (by omega)) d', readBlock_of_written h]

/-! ### The counter and the keystream from a later block on (43_ctr.md R203) -/

theorem ctrCounter_ctrCounter (c0 : Counter) (n i : Nat) : ctrCounter (ctrCounter c0 n) i = ctrCounter c0 (n + i) := by
  rw [ctrCounter, ctrCounter, ctrCounter, BitVec.add_assoc, BitVec.ofNat_add]

/-- The keystream from the counter of block `n` on is the keystream from byte `8 n` on. -/
theorem ctrByte_ctrCounter (c : Codec) (iv : Block) (c0 : Counter) (n j : Nat) :
    ctrByte c iv (ctrCounter c0 n) j = ctrByte c iv c0 (8 * n + j) := by
  have block : (8 * n + j) / 8 = n + j / 8 := by omega
  have lane : (8 * n + j) % 8 = j % 8 := by omega
  rw [ctrByte, ctrByte, ctrKeystream, ctrKeystream, ctrCounter_ctrCounter, block, lane]

/-- The blocks of a buffer whose first part has `n` whole blocks. -/
theorem ctrBlocks_add (n len : Nat) : ctrBlocks (8 * n + len) = n + ctrBlocks len := by
  simp only [ctrBlocks]
  omega

theorem ctrBlocks_whole (n : Nat) : ctrBlocks (8 * n) = n := ctrBlocks_add n 0

/-! ### The two ways over the buffer -/

theorem ctrLoop_wf {m : Memory} (wf : m.wf) (c : Codec) (iv : Block) (c0 : Counter) (a len d k : Nat) :
    (loop k (ctrBlock c iv c0 a len d) m).wf :=
  loop_invariant (fun _ (m : Memory) => m.wf) k _ m wf fun _ _ _ h => write_wf h _ _

/-- CTR over `n` whole blocks and then, with the counter moved on, over the next `len` bytes is CTR over all of them,
where the bytes have been written and so are read alike with any draws (43_ctr.md R207). -/
theorem ctrLoop_append (c : Codec) (iv : Block) (c0 : Counter) (a n len d d₁ d₂ : Nat) {m : Memory} (wf : m.wf)
    (written : m.written a (8 * n + len)) :
    loop (ctrBlocks len) (ctrBlock c iv (ctrCounter c0 n) (a + 8 * n) len d₂)
        (loop (ctrBlocks (8 * n)) (ctrBlock c iv c0 a (8 * n) d₁) m) =
      loop (ctrBlocks (8 * n + len)) (ctrBlock c iv c0 a (8 * n + len) d) m := by
  obtain ⟨held, out⟩ := ctrLoop_buffer c iv c0 a (8 * n + len) d m
  obtain ⟨held₁, out₁⟩ := ctrLoop_buffer c iv c0 a (8 * n) d₁ m
  obtain ⟨held₂, out₂⟩ := ctrLoop_buffer c iv (ctrCounter c0 n) (a + 8 * n) len d₂
    (loop (ctrBlocks (8 * n)) (ctrBlock c iv c0 a (8 * n) d₁) m)
  refine eq_of_get?_eq (ctrLoop_wf (ctrLoop_wf wf ..) ..) (ctrLoop_wf wf ..) fun x => ?_
  by_cases outside : x < a ∨ a + (8 * n + len) ≤ x
  · rw [out₂ x (by omega), out₁ x (by omega), out x outside]
  obtain ⟨j, rfl⟩ : ∃ j, x = a + j := ⟨x - a, by omega⟩
  rw [held j (by omega), byteAt_of_isSome (written j (by omega)) _ (d₁ + j)]
  by_cases firstPart : j < 8 * n
  · rw [out₂ _ (by omega), held₁ j firstPart]
  · obtain ⟨i, rfl⟩ : ∃ i, j = 8 * n + i := ⟨j - 8 * n, by omega⟩
    rw [← Nat.add_assoc, held₂ i (by omega), byteAt_congr (out₁ _ (by omega)), ctrByte_ctrCounter,
      byteAt_of_isSome (by simpa only [Nat.add_assoc] using written (8 * n + i) (by omega)) _ (d₁ + (8 * n + i))]

/-- The state that CTR_CRYPT leaves on `s` when it ends OK on `len` bytes at `a`, but for the outcome and the draws
(43_ctr.md R204, R206). -/
structure CtrDone (s : State) (a len : Nat) (t : State) : Prop where
  run : execCtrCrypt s = .next t
  dmem : t.dmem = loop (ctrBlocks len) (ctrBlock s.codec (s.dmem.readBlock s.ivAddr s.draws) s.regs.counter a len
    (s.draws + 8)) s.dmem
  regs : t.regs = s.regs.withCounter (ctrCounter s.regs.counter (ctrBlocks len))
  dmemBytes : t.dmemBytes = s.dmemBytes
  codec : t.codec = s.codec
  key : t.status.keyValid = true

theorem exists_ctrDone {s : State} {a len : Nat} (addr : s.dataAddr = a) (length : s.dataLen = len)
    (key : s.status.keyValid = true) (nonempty : len ≠ 0) (eight : s.ivLen = 8) (data : a + len ≤ s.dmemBytes)
    (ivData : s.ivAddr + 8 ≤ s.dmemBytes) : ∃ t, CtrDone s a len t := by
  subst addr length
  exact ⟨_, execCtrCrypt_ok key nonempty eight data ivData, rfl, rfl, rfl, rfl, key⟩

section
variable {s t : State} {a len : Nat} (h : CtrDone s a len t)
include h

theorem CtrDone.ivAddr : t.ivAddr = s.ivAddr := by
  rw [State.ivAddr, h.regs]
  rfl

theorem CtrDone.ivLen : t.ivLen = s.ivLen := by
  rw [State.ivLen, h.regs]
  rfl

theorem CtrDone.counter : t.regs.counter = ctrCounter s.regs.counter (ctrBlocks len) := by
  rw [h.regs, counter_withCounter]

/-- A written IV off the buffer is read alike after the command, whatever the draws. -/
theorem CtrDone.iv (away : apart s.ivAddr 8 a len) (written : s.dmem.written s.ivAddr 8) :
    t.dmem.readBlock t.ivAddr t.draws = s.dmem.readBlock s.ivAddr s.draws := by
  rw [h.ivAddr, h.dmem]
  exact readBlock_of_apart (ctrLoop_buffer _ _ _ _ _ _ _).2 away written _ _

end

/-- The registers with another buffer. -/
def OperandRegs.withBuffer (r : OperandRegs) (addr len : Word) : OperandRegs := { r with addr := addr, len := len }

@[simp] theorem counter_withBuffer (r : OperandRegs) (addr len : Word) :
    (r.withBuffer addr len).counter = r.counter := rfl

/-- Settles O48: the three commands complete; the first part leaves the IV as it was, so that the second goes on with
the same keystream, and `ctrLoop_append` says the memories are the same. -/
theorem ctrContinuation : Obligations.CtrContinuation := by
  unfold Obligations.CtrContinuation
  intro s l1 l2 a2 key eight nonempty1 block nonempty2 length place data ivData away wf written ivWritten
  obtain ⟨n, whole⟩ : ∃ n, l1.toNat = 8 * n := ⟨l1.toNat / 8, by omega⟩
  rw [whole] at nonempty1 length place away
  rw [length] at data written
  have data₁ : s.regs.addr.toNat + 8 * n ≤ s.dmemBytes := by omega
  obtain ⟨t, done⟩ := exists_ctrDone rfl length key (by omega) eight data ivData
  obtain ⟨t₁, done₁⟩ := exists_ctrDone (s := s.withRegs (s.regs.withBuffer s.regs.addr l1)) rfl whole key nonempty1
    eight data₁ ivData
  have size : t₁.dmemBytes = s.dmemBytes := done₁.dmemBytes
  have data₂ : s.regs.addr.toNat + 8 * n + l2.toNat ≤ t₁.dmemBytes := by omega
  have ivData₂ : t₁.ivAddr + 8 ≤ t₁.dmemBytes := by rw [done₁.ivAddr, size]; exact ivData
  obtain ⟨t₂, done₂⟩ := exists_ctrDone (s := accept (encode .ctrCrypt) (t₁.withRegs (t₁.regs.withBuffer a2 l2))) place
    rfl done₁.key nonempty2 (done₁.ivLen.trans eight) data₂ ivData₂
  have counter : t₁.regs.counter = ctrCounter s.regs.counter n := by
    rw [done₁.counter, ctrBlocks_whole]
    rfl
  have regs : t₂.regs.ctrHi = t.regs.ctrHi ∧ t₂.regs.ctrLo = t.regs.ctrLo := by
    rw [done₂.regs, done.regs, accept_regs, withRegs_regs, counter_withBuffer, counter, ctrCounter_ctrCounter,
      ctrBlocks_add]
    exact ⟨rfl, rfl⟩
  have memory : t₂.dmem = t.dmem := calc
    t₂.dmem = loop (ctrBlocks l2.toNat) (ctrBlock t₁.codec (t₁.dmem.readBlock t₁.ivAddr t₁.draws) t₁.regs.counter
        (s.dataAddr + 8 * n) l2.toNat (t₁.draws + 8)) t₁.dmem := done₂.dmem
    _ = t.dmem := by
      rw [done₁.iv away ivWritten, counter, done₁.codec, done₁.dmem, done.dmem]
      exact ctrLoop_append _ _ _ _ _ _ _ _ _ wf written
  exact ⟨t, t₁, t₂, done.run, done₁.run, done₂.run, memory, regs⟩

end Sys2Proof.Machine
end

section
/-! PROOFS. The expansions of the pseudo-instructions (30_encoding.md R98, R99). -/

namespace Sys2Proof.Machine

/-! ### Well-formed lines -/

@[simp] theorem wr_wellFormed (r : RegName) (v : Word) : (HostLine.wr r v).wellFormed = true := rfl

@[simp] theorem cmd_wellFormed (i : Instr) : (HostLine.cmd i).wellFormed = true := rfl

@[simp] theorem wait_wellFormed : HostLine.wait.wellFormed = true := rfl

/-- The word that holds byte `a` of the DMEM window is aligned and in the window (30_encoding.md R98). -/
theorem dbLine_wellFormed {a : Nat} (inside : a < 0x10000) (b : Byte) : (dbLine a b).wellFormed = true := by
  have aligned : (a - a % 4) % 4 = 0 := by omega
  have window : a - a % 4 < 0x10000 := by omega
  simp [dbLine, HostLine.wellFormed, HostLine.aligned, HostLine.inWindow, aligned, window]

theorem dbLines_wellFormed {off : Nat} {bytes : List Byte} (inside : off + bytes.length ≤ 0x10000) :
    ∀ l ∈ dbLines off bytes, l.wellFormed = true := by
  induction bytes generalizing off with
  | nil => nofun
  | cons b rest ih =>
    rw [List.length_cons] at inside
    exact List.forall_mem_cons.mpr ⟨dbLine_wellFormed (by omega) b, ih (by omega)⟩

theorem pseudoLines_wellFormed {p : Pseudo} (good : p.wellFormed = true) :
    ∀ l ∈ pseudoLines p, l.wellFormed = true := by
  cases p with
  | db off bytes => exact dbLines_wellFormed (by simpa [Pseudo.wellFormed] using good)
  | _ => simp [pseudoLines, runLines, dataLines, ivLines, ctrLines]

/-! ### The lines -/

/-- Line `k` of `db` writes byte `k` (30_encoding.md R99). -/
theorem dbLines_eq_map (off : Nat) (bytes : List Byte) :
    dbLines off bytes = (List.range bytes.length).map fun k => dbLine (off + k) (bytes.getD k 0) := by
  induction bytes generalizing off with
  | nil => rfl
  | cons b rest ih =>
    rw [dbLines, ih, List.length_cons, List.range_succ_eq_map, List.map_cons, List.map_map]
    refine congrArg (dbLine off b :: ·) (List.map_congr_left fun k _ => ?_)
    rw [Nat.add_right_comm]
    rfl

/-- The two lines of a counter write the halves of its 64-bit pattern (30_encoding.md R99). -/
theorem ctrLines_eq {lo hi : Word} {c : Int} (halves : hi ++ lo = BitVec.ofInt 64 c) :
    ctrLines c = [.wr .ctrLo lo, .wr .ctrHi hi] := by
  rw [ctrLines, ← halves, BitVec.extractLsb'_append_eq_right, BitVec.extractLsb'_append_eq_left]

/-- The lines of the three pseudo-instructions with a counter (30_encoding.md R99). -/
theorem pseudoLines_ctr {addr len iv lo hi : Word} {c : Int} (halves : hi ++ lo = BitVec.ofInt 64 c) {p : Pseudo}
    (row : p ∈ [Pseudo.ctrCrypt addr len iv c, .ctrEnc addr len iv c, .ctrDec addr len iv c]) :
    pseudoLines p = dataLines addr len ++ ivLines iv ++ [.wr .ctrLo lo, .wr .ctrHi hi] ++ runLines .ctrCrypt := by
  rw [← ctrLines_eq halves]
  simp only [List.mem_cons, List.not_mem_nil, or_false] at row
  obtain rfl | rfl | rfl := row <;> rfl

/-- Settles O5: `pseudoLines_wellFormed`, `dbLines_eq_map` and `pseudoLines_ctr`; the other rows are the definition's. -/
theorem expansionsAreWellFormed : Obligations.ExpansionsAreWellFormed := by
  unfold Obligations.ExpansionsAreWellFormed
  exact ⟨fun p => pseudoLines_wellFormed, dbLines_eq_map,
    fun addr len iv xl xr => ⟨rfl, rfl, rfl, rfl, rfl, rfl, rfl, rfl, rfl, rfl⟩,
    fun addr len iv lo hi c halves p row => pseudoLines_ctr halves row, fun _ _ _ => ⟨rfl, rfl, rfl⟩⟩

end Sys2Proof.Machine
end

section
/-! PROOFS. Runs of host lines on an idle core: `db` (30_encoding.md R99). -/

namespace Sys2Proof.Machine

variable {s t : State}

/-! ### Runs -/

/-- From `s` the machine comes to `t`. -/
def Reaches (s t : State) : Prop := ∃ n, runSteps n s = .next t

theorem Reaches.refl (s : State) : Reaches s s := ⟨0, rfl⟩

theorem runSteps_one (s : State) : runSteps 1 s = step s := by
  simp only [runSteps]
  cases step s <;> rfl

theorem Reaches.of_step (h : step s = .next t) : Reaches s t := ⟨1, (runSteps_one s).trans h⟩

theorem Reaches.trans {u : State} (h : Reaches s t) (h' : Reaches t u) : Reaches s u := by
  obtain ⟨m, run⟩ := h
  obtain ⟨n, run'⟩ := h'
  exact ⟨m + n, (runSteps_add run).trans run'⟩

/-! ### Lines -/

theorem reaches_event {e : Event} {rest : List Event} (next : eventStep e (s.withAgenda rest) = .next t) :
    Reaches (s.withAgenda (e :: rest)) t :=
  .of_step ((step_cons rfl).trans next)

/-- On an idle core a turn of the CORE before a line changes nothing (60_exceptions.md R255). -/
theorem reaches_line (idle : s.latch = none) (τ : Timing) (l : HostLine) (rest : List Event) :
    Reaches (s.withAgenda (timedEvents τ l ++ rest)) (s.withAgenda (lineEvents τ.polls l ++ rest)) := by
  unfold timedEvents
  split
  · exact reaches_event (e := .coreTurn) (coreStep_none idle)
  · exact .refl _

/-- A line of one write, on an idle core. -/
theorem reaches_write (idle : s.latch = none) {l : HostLine} {off : BitVec 15} {v : Word} {be : BitVec 4}
    (access : ∀ polls, lineEvents polls l = [.write off v be]) (τ : Timing) (rest : List Event) :
    Reaches (s.withAgenda (timedEvents τ l ++ rest)) (hostWrite off v be (s.withAgenda rest)) := by
  refine (reaches_line idle τ l rest).trans ?_
  rw [access]
  exact reaches_event rfl

/-! ### `db` -/

/-- A write with one byte lane enabled writes one byte (20_memory.md R64). -/
theorem writeLanes_oneLane (m : Memory) (a : Nat) {j : Nat} (hj : j < 4) (v : Word) :
    loop 4 (writeLane a v (1#4 <<< j)) m = m.put (a + j) (v.extractLsb' (8 * j) 8) := by
  interval_cases j <;> simp [loop_succ, writeLane]

theorem extractLsb'_setWidth_shiftLeft (b : Byte) {j : Nat} (hj : j < 4) :
    (b.setWidth 32 <<< (8 * j)).extractLsb' (8 * j) 8 = b := by
  ext i hi
  have inWord : 8 * j + i < 32 := by omega
  simpa [BitVec.getElem_extractLsb', inWord] using BitVec.getLsbD_eq_getElem hi

/-- The window word that holds byte `a` of DMEM (20_memory.md R61, R64). -/
theorem targetOf_dbLine {n a : Nat} (size : n ≤ 0x10000) (inside : a < n) :
    targetOf n (wordOffset (0x10000 + (a - a % 4))) = .dmem (a - a % 4) := by
  have word : a - a % 4 = 4 * (a / 4) := by omega
  have place : 4 * (wordOffset (0x10000 + (a - a % 4))).toNat = 0x10000 + 4 * (a / 4) := by
    rw [wordOffset, BitVec.toNat_ofNat]
    omega
  rw [targetOf_dmemWordAt place (by omega), word]

/-- The access of one byte of a `db` line writes that byte (30_encoding.md R99). -/
theorem hostWrite_dbLine (idle : s.latch = none) (size : s.dmemBytes ≤ 0x10000) {a : Nat} (inside : a < s.dmemBytes)
    (b : Byte) :
    hostWrite (wordOffset (0x10000 + (a - a % 4))) (b.setWidth 32 <<< (8 * (a % 4))) (1#4 <<< (a % 4)) s =
      s.withDmem (s.dmem.put a b) := by
  have lane : a % 4 < 4 := Nat.mod_lt a (by decide)
  rw [hostWrite_of_targetOf_dmem idle (targetOf_dbLine size inside), writeLanes_oneLane _ _ lane,
    extractLsb'_setWidth_shiftLeft b lane, Nat.sub_add_cancel (Nat.mod_le a 4)]

/-- On an idle core a `db` line inside DMEM leaves its bytes written there, and nothing else changed. -/
theorem reaches_db (idle : s.latch = none) (size : s.dmemBytes ≤ 0x10000) {off : Nat} {bytes : List Byte}
    (inside : off + bytes.length ≤ s.dmemBytes) (ts : List Timing) (rest : List Event) :
    Reaches (s.withAgenda (programEvents ts (dbLines off bytes) ++ rest))
      ((s.withDmem (s.dmem.write off bytes)).withAgenda rest) := by
  induction bytes generalizing s off ts with
  | nil => exact .refl _
  | cons b bytes ih =>
    rw [List.length_cons] at inside
    rw [dbLines, programEvents, List.append_assoc]
    refine (reaches_write idle (fun _ => rfl) _ _).trans ?_
    have first : off < s.dmemBytes := by omega
    have others : off + 1 + bytes.length ≤ s.dmemBytes := by omega
    rw [hostWrite_dbLine (s := s.withAgenda (programEvents ts.tail (dbLines (off + 1) bytes) ++ rest)) idle size first]
    exact ih (s := s.withDmem (s.dmem.put off b)) idle size others ts.tail

/-- Settles O6: the run is `reaches_db`, and a write of the bytes holds them and nothing else. -/
theorem dbWritesItsBytes : Obligations.DbWritesItsBytes := by
  unfold Obligations.DbWritesItsBytes
  intro off bytes ts s idle allowed inside
  have size : s.dmemBytes ≤ 0x10000 := by simp_all [Config.dmemBytesAllowed]
  obtain ⟨n, run⟩ := reaches_db idle size inside ts s.agenda
  exact ⟨n, _, run, fun k hk => get?_write_inside _ _ _ _ hk, fun x hx => get?_write_outside _ _ _ _ hx⟩

end Sys2Proof.Machine
end

section
/-! PROOFS. Host lines that run a command: operand writes, `cmd` and `wait` (30_encoding.md R98, R99). -/

namespace Sys2Proof.Machine

variable {s t a u : State} {i : Instr} {r : RegName}

/-! ### Commands leave the model's own agenda and observations alone -/

/-- The model's own fields agenda and observations <- es, ws. -/
def State.withTrace (s : State) (es : List Event) (ws : List Word) : State := { s with agenda := es, observed := ws }

/-- The answer with the next state, if there is one, changed by `f`. -/
def mapNext (f : State → State) : Answer → Answer
  | .next t => .next (f t)
  | .fault r => .fault r
  | .refused r => .refused r

/-- No command reads the agenda or the observations, or writes them. -/
theorem exec_withTrace (i : Instr) (s : State) (es : List Event) (ws : List Word) :
    exec i (s.withTrace es ws) = mapNext (·.withTrace es ws) (exec i s) := by
  cases i with
  | keyset => simp only [exec, execKeyset, apply_ite (mapNext _)]; rfl
  | encipher | decipher => simp only [exec, execEncipher, execDecipher, pairCommand, apply_ite (mapNext _)]; rfl
  | blkEnc | blkDec => simp only [exec, execBlkEnc, execBlkDec, blockCommand, apply_ite (mapNext _)]; rfl
  | ecbEnc | ecbDec => simp only [exec, execEcbEnc, execEcbDec, ecbCommand, apply_ite (mapNext _)]; rfl
  | cbcEnc | cbcDec => simp only [exec, execCbcEnc, execCbcDec, cbcCommand, apply_ite (mapNext _)]; rfl
  | ctrCrypt => simp only [exec, execCtrCrypt, apply_ite (mapNext _)]; rfl

theorem exec_withTrace_of_next (run : exec i s = .next t) (es : List Event) (ws : List Word) :
    exec i (s.withTrace es ws) = .next (t.withTrace es ws) := by
  rw [exec_withTrace, run, mapNext]

/-! ### A wait for the command in flight -/

theorem reaches_wait_of_idle (idle : u.latch = none) (polls : Nat) (rest : List Event) (ws : List Word) :
    Reaches (u.withTrace (.wait polls :: rest) ws) (u.withTrace rest (statusWord u :: ws)) :=
  reaches_event (s := u.withTrace rest ws) (e := .wait polls) (waitStep_of_idle (s := u.withTrace rest ws) idle polls)

section
variable {l : Latch} (latch : a.latch = some l) (word : l.word = encode i) (run : exec i a = .next u)
include latch word run

/-- The CORE's turn completes the command in flight, whatever is still to come. -/
theorem coreStep_withTrace (es : List Event) (ws : List Word) :
    coreStep (a.withTrace es ws) = .next (u.withTrace es ws) := calc
  _ = completeWord l.word (a.withTrace es ws) := coreStep_some latch
  _ = exec i (a.withTrace es ws) := completeWord_of_ok (word ▸ decode_encode i) _
  _ = .next (u.withTrace es ws) := exec_withTrace_of_next run es ws

/-- A wait sees BUSY = 1 until its polls are used up, then the completion, then the outcome (30_encoding.md R98). -/
theorem reaches_wait_of_busy (polls : Nat) (rest : List Event) (ws : List Word) :
    Reaches (a.withTrace (.wait polls :: rest) ws)
      (u.withTrace rest (statusWord u :: (List.replicate polls (statusWord a) ++ ws))) := by
  have busy : a.latch.isSome = true := by rw [latch]; rfl
  have idle : u.latch = none := (exec_endsIn run).latch
  induction polls generalizing ws with
  | zero =>
    refine (reaches_event (s := a.withTrace rest ws) (e := .wait 0) ?_).trans (reaches_wait_of_idle idle 0 rest ws)
    exact (waitStep_zero_of_busy (s := a.withTrace rest ws) busy).trans (coreStep_withTrace latch word run _ _)
  | succ polls ih =>
    have poll : Reaches (a.withTrace (.wait (polls + 1) :: rest) ws)
        (a.withTrace (.wait polls :: rest) (statusWord a :: ws)) :=
      reaches_event (s := a.withTrace rest ws) (e := .wait (polls + 1))
        (waitStep_succ_of_busy (s := a.withTrace rest ws) busy polls)
    have observed : List.replicate (polls + 1) (statusWord a) ++ ws =
        List.replicate polls (statusWord a) ++ statusWord a :: ws := by
      rw [List.replicate_succ', List.append_assoc]
      rfl
    rw [observed]
    exact poll.trans (ih _)

/-- The line `wait`, with any timing. -/
theorem reaches_waitLine (τ : Timing) (rest : List Event) (ws : List Word) :
    ∃ k, Reaches (a.withTrace (timedEvents τ .wait ++ rest) ws)
      (u.withTrace rest (statusWord u :: (List.replicate k (statusWord a) ++ ws))) := by
  unfold timedEvents
  split
  · have idle : u.latch = none := (exec_endsIn run).latch
    refine ⟨0, (reaches_event (s := a.withTrace (.wait τ.polls :: rest) ws) (e := .coreTurn) ?_).trans
      (reaches_wait_of_idle idle τ.polls rest ws)⟩
    exact coreStep_withTrace latch word run _ _
  · exact ⟨τ.polls, reaches_wait_of_busy latch word run τ.polls rest ws⟩

end

/-! ### The lines of a command -/

theorem hostWrite_cmd_of_idle (idle : s.latch = none) (w : Word) : hostWrite 0#15 w 0b1111#4 s = accept w s := by
  rw [hostWrite_cmd, if_neg (by simp [idle])]

/-- `cmd` and `wait` run the command on the operands as they stand (30_encoding.md R99). -/
theorem linesRun_runLines (idle : s.latch = none) (ts : List Timing) : linesRun (runLines i) i s.regs ts s := by
  obtain ⟨u, run⟩ := exec_completes i (accept (encode i) s)
  have agenda : u.agenda = s.agenda := (exec_frame run).agenda
  have accepted := reaches_write idle (l := .cmd i) (off := 0#15) (be := 0b1111#4) (fun _ => rfl) (ts.headD {})
    (timedEvents (ts.tail.headD {}) .wait ++ s.agenda)
  rw [hostWrite_cmd_of_idle (by exact idle)] at accepted
  obtain ⟨k, waited⟩ := reaches_waitLine (accept_latch s (encode i)) rfl run (ts.tail.headD {}) s.agenda s.observed
  obtain ⟨n, steps⟩ := accepted.trans waited
  refine ⟨u, n, k, run, ?_⟩
  rw [runLines, programEvents, programEvents, programEvents, List.append_nil, List.append_assoc]
  refine steps.trans ?_
  rw [← agenda]
  rfl

theorem targetOf_wordOffset (n : Nat) (r : RegName) : targetOf n (wordOffset (regOffset r)) = .reg r := by
  cases r <;> rfl

/-- A line that writes an operand, and then the lines of the command on the registers so written. -/
theorem linesRun_cons_wr (idle : s.latch = none) (rw : rwReg r = true) {v : Word} {ls : List HostLine} {x : OperandRegs}
    {ts : List Timing} (h : linesRun ls i x ts.tail (s.withRegs (s.regs.write r v))) :
    linesRun (.wr r v :: ls) i x ts s := by
  obtain ⟨u, n, k, run, steps⟩ := h
  have written := reaches_write idle (l := .wr r v) (be := 0b1111#4) (fun _ => rfl) (ts.headD {})
    (programEvents ts.tail ls ++ s.agenda)
  rw [hostWrite_rw_of_idle (by exact idle) (targetOf_wordOffset _ r) rw] at written
  obtain ⟨n', steps'⟩ := written.trans ⟨n, steps⟩
  refine ⟨u, n', k, run, ?_⟩
  rw [programEvents, List.append_assoc]
  exact steps'

/-- The lines that write registers. -/
def writeLines (ws : List (RegName × Word)) : List HostLine := ws.map fun w => .wr w.1 w.2

/-- The registers after these writes. -/
def OperandRegs.writes (x : OperandRegs) (ws : List (RegName × Word)) : OperandRegs :=
  ws.foldl (fun y w => y.write w.1 w.2) x

/-- The lines of a command pseudo-instruction: writes of operands, `cmd` and `wait` (30_encoding.md R99). -/
theorem linesRun_writeLines (idle : s.latch = none) (ts : List Timing) (ws : List (RegName × Word))
    (rw : ∀ w ∈ ws, rwReg w.1 = true) : linesRun (writeLines ws ++ runLines i) i (s.regs.writes ws) ts s := by
  induction ws generalizing s ts with
  | nil => exact linesRun_runLines idle ts
  | cons w ws ih =>
    obtain ⟨first, others⟩ := List.forall_mem_cons.mp rw
    exact linesRun_cons_wr idle first (ih (s := s.withRegs (s.regs.write w.1 w.2)) idle ts.tail others)

/-- Settles O7: every expansion writes its operands and then runs the command, by `linesRun_writeLines`. -/
theorem commandLinesRunTheCommand : Obligations.CommandLinesRunTheCommand := by
  unfold Obligations.CommandLinesRunTheCommand
  intro s ts idle
  have lines (i : Instr) (ws : List (RegName × Word)) (rw : ∀ w ∈ ws, rwReg w.1 = true) :
      linesRun (writeLines ws ++ runLines i) i (s.regs.writes ws) ts s := linesRun_writeLines idle ts ws rw
  refine ⟨fun i => linesRun_runLines idle ts, fun xl xr => ?_, fun addr => ?_, fun addr len => ?_,
    fun addr len iv => ?_, fun addr len iv lo hi c halves p row => ?_⟩
  · have pair (i : Instr) := lines i [(.xl, xl), (.xr, xr)] (by simp [rwReg])
    exact ⟨pair .encipher, pair .decipher⟩
  · have block (i : Instr) := lines i [(.addr, addr)] (by simp [rwReg])
    exact ⟨block .blkEnc, block .blkDec⟩
  · have buffer (i : Instr) := lines i [(.addr, addr), (.len, len)] (by simp [rwReg])
    exact ⟨buffer .keyset, buffer .ecbEnc, buffer .ecbDec⟩
  · have withIv (i : Instr) := lines i [(.addr, addr), (.len, len), (.ivaddr, iv), (.ivlen, 8)] (by simp [rwReg])
    exact ⟨withIv .cbcEnc, withIv .cbcDec, withIv .ctrCrypt⟩
  · rw [pseudoLines_ctr halves row]
    exact lines .ctrCrypt [(.addr, addr), (.len, len), (.ivaddr, iv), (.ivlen, 8), (.ctrLo, lo), (.ctrHi, hi)]
      (by simp [rwReg])

end Sys2Proof.Machine
end

section
/-! PROOFS. Completion is eventual (70_reset_and_hazards.md R281). -/

namespace Sys2Proof.Machine

variable {s t u : State} {l : Latch}

@[simp] theorem hostWrite_agenda (off : BitVec 15) (v : Word) (be : BitVec 4) (s : State) :
    (hostWrite off v be s).agenda = s.agenda := by
  obtain e | ⟨-, e⟩ | ⟨-, e⟩ | ⟨-, -, e⟩ | ⟨-, r, -, e⟩ | ⟨-, a, -, e⟩ := hostWrite_cases off v be s <;> rw [e] <;> rfl

@[simp] theorem hostRead_agenda (off : BitVec 15) (s : State) : (hostRead off s).agenda = s.agenda := by
  obtain ⟨w, n, e⟩ := hostRead_cases off s
  rw [e]
  rfl

/-! ### The agenda comes to its end -/

/-- The CORE's turn ends every command (60_exceptions.md R231). -/
theorem coreStep_completes (s : State) : ∃ t, coreStep s = .next t ∧ t.latch = none ∧ t.agenda = s.agenda := by
  obtain ⟨idle, e⟩ | ⟨l, r, -, -, e⟩ | ⟨l, i, -, -, e⟩ := coreStep_cases s
  · exact ⟨s, e, idle, rfl⟩
  · exact ⟨_, e, rfl, rfl⟩
  · obtain ⟨t, run⟩ := exec_completes i s
    exact ⟨t, e.trans run, (exec_endsIn run).latch, (exec_frame run).agenda⟩

/-- Within `n` steps the agenda of `s` has come to `rest`. -/
def ComesTo (n : Nat) (s : State) (rest : List Event) : Prop :=
  ∃ k ≤ n, ∃ t, runSteps k s = .next t ∧ t.agenda = rest

theorem ComesTo.of_step {rest : List Event} (next : step s = .next t) (agenda : t.agenda = rest) : ComesTo 1 s rest :=
  ⟨1, le_rfl, t, (runSteps_one s).trans next, agenda⟩

theorem ComesTo.after_step {n : Nat} {rest : List Event} (next : step s = .next t) (h : ComesTo n t rest) :
    ComesTo (n + 1) s rest := by
  obtain ⟨k, hk, u, run, agenda⟩ := h
  refine ⟨1 + k, by omega, u, ?_, agenda⟩
  rw [runSteps_add ((runSteps_one s).trans next), run]

theorem ComesTo.mono {m n : Nat} {rest : List Event} (h : ComesTo m s rest) (le : m ≤ n) : ComesTo n s rest := by
  obtain ⟨k, hk, rest⟩ := h
  exact ⟨k, by omega, rest⟩

theorem wait_comesTo_of_idle (idle : s.latch = none) {polls : Nat} {rest : List Event}
    (agenda : s.agenda = .wait polls :: rest) : ComesTo 1 s rest :=
  .of_step ((step_cons agenda).trans (waitStep_of_idle (s := s.withAgenda rest) idle polls)) rfl

/-- A wait ends: by a poll of an idle core, or after its polls and the CORE's turn (30_encoding.md R98). -/
theorem wait_comesTo (polls : Nat) {rest : List Event} (agenda : s.agenda = .wait polls :: rest) :
    ComesTo (polls + 2) s rest := by
  induction polls generalizing s with
  | zero =>
    by_cases busy : s.latch.isSome = true
    · obtain ⟨t, turn, idle, kept⟩ := coreStep_completes (s.withAgenda (.wait 0 :: rest))
      have next : step s = .next t :=
        (step_cons agenda).trans ((waitStep_zero_of_busy (s := s.withAgenda rest) busy).trans turn)
      exact .after_step next (wait_comesTo_of_idle idle kept)
    · exact (wait_comesTo_of_idle (by simpa using busy) agenda).mono (by omega)
  | succ polls ih =>
    by_cases busy : s.latch.isSome = true
    · exact .after_step ((step_cons agenda).trans (waitStep_succ_of_busy (s := s.withAgenda rest) busy polls)) (ih rfl)
    · exact (wait_comesTo_of_idle (by simpa using busy) agenda).mono (by omega)

/-- Every event is over after the steps it takes at most. -/
theorem event_comesTo {e : Event} {rest : List Event} (agenda : s.agenda = e :: rest) :
    ComesTo (eventSteps e) s rest := by
  cases e with
  | write off v be => exact .of_step (step_cons agenda) (hostWrite_agenda _ _ _ _)
  | read off => exact .of_step (step_cons agenda) (hostRead_agenda _ _)
  | wait polls => exact wait_comesTo polls agenda
  | coreTurn =>
    obtain ⟨t, turn, -, kept⟩ := coreStep_completes (s.withAgenda rest)
    exact .of_step ((step_cons agenda).trans turn) kept
  | reset => exact .of_step (step_cons agenda) rfl

theorem agenda_comesTo (es : List Event) (agenda : s.agenda = es) : ComesTo (agendaSteps es) s [] := by
  induction es generalizing s with
  | nil => exact ⟨0, le_rfl, s, rfl, agenda⟩
  | cons e es ih =>
    obtain ⟨k, hk, t, run, rest⟩ := event_comesTo agenda
    obtain ⟨k', hk', u, run', done⟩ := ih rest
    refine ⟨k + k', ?_, u, (runSteps_add run).trans run', done⟩
    simp only [agendaSteps, List.map_cons, List.sum_cons] at hk' ⊢
    omega

/-- An idle core with nothing to come stays as it is (60_exceptions.md R255). -/
theorem runSteps_of_idle (agenda : s.agenda = []) (idle : s.latch = none) (n : Nat) : runSteps n s = .next s := by
  induction n with
  | zero => rfl
  | succ n ih =>
    rw [Nat.add_comm, runSteps_add ((runSteps_one s).trans ((step_nil agenda).trans (coreStep_none idle))), ih]

/-- The agenda comes to its end, then the CORE has its turn, then nothing changes any more. -/
theorem runSteps_completes (s : State) :
    ∃ t, runSteps (agendaSteps s.agenda + 1) s = .next t ∧ t.agenda = [] ∧ t.latch = none := by
  obtain ⟨k, hk, t, run, agenda⟩ := agenda_comesTo s.agenda rfl
  obtain ⟨u, turn, idle, kept⟩ := coreStep_completes t
  have last : runSteps 1 t = .next u := (runSteps_one t).trans ((step_nil agenda).trans turn)
  have steps : agendaSteps s.agenda + 1 = k + (1 + (agendaSteps s.agenda - k)) := by omega
  refine ⟨u, ?_, kept.trans agenda, idle⟩
  rw [steps, runSteps_add run, runSteps_add last, runSteps_of_idle (kept.trans agenda) idle]

/-! ### The command in flight -/

/-- From `s` to `t` the command of latch `l` is in flight, and its operands, DMEM, P, S and KEY_VALID stay. -/
structure InFlight (l : Latch) (s t : State) : Prop where
  latch : t.latch = some l
  regs : t.regs = s.regs
  dmem : t.dmem = s.dmem
  codec : t.codec = s.codec
  key : t.status.keyValid = s.status.keyValid

theorem InFlight.trans (h : InFlight l s t) (h' : InFlight l t u) : InFlight l s u :=
  ⟨h'.latch, h'.regs.trans h.regs, h'.dmem.trans h.dmem, h'.codec.trans h.codec, h'.key.trans h.key⟩

theorem InFlight.of_withAgenda {es : List Event} (h : InFlight l (s.withAgenda es) t) : InFlight l s t :=
  ⟨h.latch, h.regs, h.dmem, h.codec, h.key⟩

/-- A host write while BUSY = 1 changes at most OVR (20_memory.md R67). -/
theorem hostWrite_inFlight (latch : s.latch = some l) (off : BitVec 15) (v : Word) (be : BitVec 4) :
    InFlight l s (hostWrite off v be s) := by
  have busy : s.busy ≠ false := by simp [latch]
  obtain e | ⟨-, e⟩ | ⟨-, e⟩ | ⟨idle, -⟩ | ⟨idle, -⟩ | ⟨idle, -⟩ := hostWrite_cases off v be s
  case inr.inr.inr.inl | inr.inr.inr.inr.inl | inr.inr.inr.inr.inr => exact absurd idle busy
  all_goals rw [e]; exact ⟨latch, rfl, rfl, rfl, rfl⟩

theorem hostRead_inFlight (latch : s.latch = some l) (off : BitVec 15) : InFlight l s (hostRead off s) := by
  obtain ⟨w, n, e⟩ := hostRead_cases off s
  rw [e]
  exact ⟨latch, rfl, rfl, rfl, rfl⟩

theorem agendaSteps_lt_cons (e : Event) (es : List Event) : agendaSteps es < agendaSteps (e :: es) := by
  have positive : 0 < eventSteps e := by cases e <;> simp [eventSteps]
  simp only [agendaSteps, List.map_cons, List.sum_cons]
  omega

/-- With a command in flight and no reset to come, the CORE is next or the step takes an event of the HOST and leaves the
command in flight. -/
theorem step_of_inFlight (latch : s.latch = some l) (noReset : .reset ∉ s.agenda) :
    (∃ rest, coreNext s.agenda rest) ∨
      ∃ t, step s = .next t ∧ InFlight l s t ∧ .reset ∉ t.agenda ∧ agendaSteps t.agenda < agendaSteps s.agenda := by
  cases agenda : s.agenda with
  | nil => exact .inl ⟨[], .inl ⟨rfl, rfl⟩⟩
  | cons e rest =>
    rw [agenda] at noReset
    have later : .reset ∉ rest := List.not_mem_of_not_mem_cons noReset
    have fewer := agendaSteps_lt_cons e rest
    cases e with
    | write off v be =>
      exact .inr ⟨_, step_cons agenda, (hostWrite_inFlight (s := s.withAgenda rest) latch off v be).of_withAgenda,
        by simpa using later, by simpa using fewer⟩
    | read off =>
      exact .inr ⟨_, step_cons agenda, (hostRead_inFlight (s := s.withAgenda rest) latch off).of_withAgenda,
        by simpa using later, by simpa using fewer⟩
    | wait polls =>
      cases polls with
      | zero => exact .inl ⟨_, .inr (.inr ⟨⟨rest, rfl⟩, rfl⟩)⟩
      | succ polls =>
        have poll := waitStep_succ_of_busy (s := s.withAgenda rest) (by simp [latch]) polls
        exact .inr ⟨_, (step_cons agenda).trans poll, ⟨latch, rfl, rfl, rfl, rfl⟩, by simpa using later,
          by simp [agendaSteps, eventSteps]⟩
    | coreTurn => exact .inl ⟨rest, .inr (.inl rfl)⟩
    | reset => exact absurd List.mem_cons_self noReset

/-- The run comes to the CORE's turn with the command still in flight. -/
theorem reaches_coreNext (latch : s.latch = some l) (noReset : .reset ∉ s.agenda) :
    ∃ n u rest, n ≤ agendaSteps s.agenda ∧ runSteps n s = .next u ∧ InFlight l s u ∧ coreNext u.agenda rest := by
  induction bound : agendaSteps s.agenda using Nat.strong_induction_on generalizing s with
  | _ steps ih =>
    obtain ⟨rest, next⟩ | ⟨t, next, stays, noReset', fewer⟩ := step_of_inFlight latch noReset
    · exact ⟨0, s, rest, Nat.zero_le _, rfl, ⟨latch, rfl, rfl, rfl, rfl⟩, next⟩
    · obtain ⟨n, u, rest, le, run, stays', turn⟩ := ih _ (bound ▸ fewer) stays.latch noReset' rfl
      exact ⟨1 + n, u, rest, by omega, (runSteps_add ((runSteps_one s).trans next)).trans run, stays.trans stays', turn⟩

/-- Settles O11: `runSteps_completes`, and `reaches_coreNext` with the step of the CORE's turn. -/
theorem completionIsEventual : Obligations.CompletionIsEventual := by
  unfold Obligations.CompletionIsEventual
  refine ⟨runSteps_completes, fun s l latch noReset => ?_⟩
  obtain ⟨n, u, rest, le, run, stays, next⟩ := reaches_coreNext latch noReset
  exact ⟨n, u, rest, le, run, stays.latch, stays.regs, stays.dmem, stays.codec, stays.key,
    step_of_coreNext stays.latch next⟩

end Sys2Proof.Machine
end
